-- ==== Sys2Proof/Word.lean ====
section
/-! DEFINITION. The word of the command port and of the engine's register file (R14, R56). -/

namespace Sys2Proof

/-- The 32-bit word of the command port (`cmd`, `wdata`, `rdata`, R56) and of every engine register (R14). -/
abbrev Word := BitVec 32

end Sys2Proof
end

