-- ==== Sys2Proof/Config/Params.lean ====
section
/-! DEFINITION. The parameters of the block (00_scope.md R7): every definition of the model takes a
configuration, and this hardware's is one value of it. -/

namespace Sys2Proof

/-- What `round` does at exactly one half (R7 `ROUND_TIE`, U4 of 93_implementation_defined.md). -/
inductive RoundTie where
  /-- A tie goes toward plus infinity. -/
  | up
  /-- A tie goes to the even neighbour: not this hardware's, but a claim can be made for both. -/
  | toEven
deriving DecidableEq, Repr

/-- The parameters that are fixed when the engine is built, each a field of the configuration, with the bounds
that go with them (R7). The free parameters of R7 are the constants of Config.lean. -/
structure Config where
  /-- `N`, the number of PWM channels. -/
  N : Nat
  /-- `W`, the width of the timer's prescaler, period and compare registers. -/
  W : Nat
  /-- `FW`, the width of a frequency value. -/
  FW : Nat
  /-- `DF`, the fractional bits of the duty format. -/
  DF : Nat
  /-- `ROUND_TIE`. -/
  roundTie : RoundTie
  /-- R7, D6. -/
  channels_pos : 1 ≤ N
  /-- R7, D6: the register numbers `0x20 + i` and `0x30 + i` have room for 16. -/
  channels_le : N ≤ 16
  /-- R7, D7. -/
  width_pos : 1 ≤ W
  /-- R7, D7: results live in 32-bit registers. -/
  width_le : W ≤ 32
  /-- A frequency has a bit at least. -/
  freq_pos : 1 ≤ FW
  /-- A frequency lives in a 32-bit register (D5). -/
  freq_le : FW ≤ 32
  /-- The rounding of R78 adds `2 ^ (DF - 1)`. -/
  frac_pos : 1 ≤ DF
  /-- A duty register holds the raw value of 1.0 (R11, D8). -/
  frac_le : DF ≤ 31

namespace Config

/-- This hardware: the value column of R7. -/
abbrev hardware : Config where
  N := 4
  W := 16
  FW := 32
  DF := 16
  roundTie := .up
  channels_pos := by decide
  channels_le := by decide
  width_pos := by decide
  width_le := by decide
  freq_pos := by decide
  freq_le := by decide
  frac_pos := by decide
  frac_le := by decide

/-- `REG_MAX`, the largest value a timer register holds (R7). -/
abbrev regMax (c : Config) : Nat := 2 ^ c.W - 1

/-- The raw duty value that stands for 1.0 (R11). -/
abbrev dutyOne (c : Config) : Nat := 2 ^ c.DF

end Config

/-- A channel index, 0 to N-1 (R52). Here and below a configuration left out is this hardware's. -/
abbrev Channel (c : Config := .hardware) := Fin c.N

/-- A value of the timer's prescaler, period, compare and counter registers (R27). -/
abbrev TimerWord (c : Config := .hardware) := BitVec c.W

/-- An answer of the clock frequency port (R50). -/
abbrev Frequency (c : Config := .hardware) := BitVec c.FW

/-- A channel number as a command or a register's name spells it: room for the largest N (R7, R14, R60). -/
abbrev ChannelNumber := Fin 16

/-- The channel that a number names, if there is one (R52). -/
def Config.channel (c : Config) (i : ChannelNumber) : Option (Channel c) :=
  if h : i.val < c.N then some ⟨i.val, h⟩ else none

end Sys2Proof
end

