-- ==== Sys2Proof/Syntax.lean ====
section
/-! DEFINITION. The commands (R62) and the registers they name (R14). The commands play the part an
instruction set plays in an ISA manual (R2). Both are the same for every configuration: which channel numbers name
a channel is checked in WellFormed.lean. -/

namespace Sys2Proof

/-- The engine registers by name (R14). -/
inductive Reg where
  /-- STATUS, 0x00 (R15). -/
  | status
  /-- PARAM, 0x01 (R16). -/
  | param
  /-- TGTF, 0x02 (R17). -/
  | tgtf
  /-- CNTF, 0x03 (R18). -/
  | cntf
  /-- OUTF, 0x04 (R19). -/
  | outf
  /-- CHEN, 0x05 (R20). -/
  | chen
  /-- PSC, 0x06 (R22). -/
  | psc
  /-- ARR, 0x07 (R23). -/
  | arr
  /-- PREM, 0x08 (R22). -/
  | prem
  /-- AREM, 0x09 (R23). -/
  | arem
  /-- CLKS, 0x0A (R22). -/
  | clks
  /-- APSC, 0x0B (R25). -/
  | apsc
  /-- AARR, 0x0C (R25). -/
  | aarr
  /-- DUTY(i), 0x20 + i (R21). -/
  | duty (i : ChannelNumber)
  /-- CMP(i), 0x30 + i (R23). -/
  | cmp (i : ChannelNumber)
deriving DecidableEq, Repr

/-- The seven commands (R62), one constructor for each row of spec/opcode_table.json. -/
inductive Instr where
  /-- `WR reg, wdata` (R72): the data word of the transaction is the command's operand. -/
  | wr (reg : Reg) (wdata : Word)
  /-- `RD reg` (R73). -/
  | rd (reg : Reg)
  /-- `CPRE` (R74). -/
  | cpre
  /-- `CPAC` (R75). -/
  | cpac
  /-- `APPLY` (R86). -/
  | apply
  /-- `CHON ch` (R90). -/
  | chon (ch : ChannelNumber)
  /-- `CHOFF ch` (R91). -/
  | choff (ch : ChannelNumber)
deriving DecidableEq, Repr

end Sys2Proof
end

