-- ==== Sys2Proof/Machine/Registers.lean ====
section
/-! DEFINITION. The table of the engine registers (R14): number and access of each, and the number that
names none (R52). -/

namespace Sys2Proof

/-- The 8-bit number of a register (R14). -/
def Reg.number : Reg → BitVec 8
  | .status => 0x00
  | .param => 0x01
  | .tgtf => 0x02
  | .cntf => 0x03
  | .outf => 0x04
  | .chen => 0x05
  | .psc => 0x06
  | .arr => 0x07
  | .prem => 0x08
  | .arem => 0x09
  | .clks => 0x0A
  | .apsc => 0x0B
  | .aarr => 0x0C
  | .duty i => BitVec.ofNat 8 (0x20 + i.val)
  | .cmp i => BitVec.ofNat 8 (0x30 + i.val)

/-- The register is there: a per-channel register is only for the channels below N (R14, R52). -/
def Reg.present (reg : Reg) (c : Config := .hardware) : Bool :=
  match reg with
  | .duty i | .cmp i => i.val < c.N
  | .status | .param | .tgtf | .cntf | .outf | .chen | .psc | .arr | .prem | .arem | .clks | .apsc | .aarr => true

/-- The channel number of `base + i` with `i < N` (R14, R60). -/
def channelAt (base n : Nat) (c : Config := .hardware) : Option ChannelNumber :=
  if h : base ≤ n ∧ n < base + c.N then some ⟨n - base, by have := c.channels_le; omega⟩ else none

/-- The register a number selects, or none (R14; the reserved numbers are those of R52). -/
def Reg.ofNumber (n : BitVec 8) (c : Config := .hardware) : Option Reg :=
  match n.toNat with
  | 0x00 => some .status
  | 0x01 => some .param
  | 0x02 => some .tgtf
  | 0x03 => some .cntf
  | 0x04 => some .outf
  | 0x05 => some .chen
  | 0x06 => some .psc
  | 0x07 => some .arr
  | 0x08 => some .prem
  | 0x09 => some .arem
  | 0x0A => some .clks
  | 0x0B => some .apsc
  | 0x0C => some .aarr
  | k => ((channelAt 0x20 k c).map Reg.duty).or ((channelAt 0x30 k c).map Reg.cmp)

/-- The access column of R14: true for a RW register, false for a RO one. -/
def Reg.writable : Reg → Bool
  | .tgtf | .cntf | .outf | .chen | .duty _ => true
  | .status | .param | .psc | .arr | .prem | .arem | .clks | .apsc | .aarr | .cmp _ => false

end Sys2Proof
end

