-- ==== Sys2Proof/WellFormed.lean ====
section
/-! DEFINITION. Which terms of `Instr` are commands of a configuration: the selector conditions of R62. That a
register number is one of R14's is in the type `Reg`; what is left to check is that a per-channel register or a
channel index is below N, and that WR names a RW register. -/

namespace Sys2Proof

/-- The selector conditions of R62. -/
def Instr.wellFormed (i : Instr) (c : Config := .hardware) : Bool :=
  match i with
  | .wr reg _ => reg.present c && reg.writable
  | .rd reg => reg.present c
  | .cpre => true
  | .cpac => true
  | .apply => true
  | .chon ch => ch.val < c.N
  | .choff ch => ch.val < c.N

end Sys2Proof
end

