-- ==== Sys2Proof/Decode.lean ====
section
/-! DEFINITION. From a transaction's words to a command (R57 to R66), the encoder (R68), and the opcode
table (R62). -/

namespace Sys2Proof

/-- Why a command word is illegal (R64). The engine does the same for each (R102): the names are the
decoder's own. -/
inductive Illegal where
  /-- `cmd[15:0]` is not zero. -/
  | nonzeroLow
  /-- The opcode is none of the seven (R65). -/
  | reservedOpcode
  /-- A Format N word with `sel` not zero (R58). -/
  | nonzeroSel
  /-- `sel` names no register (R59). -/
  | noRegister
  /-- A WR whose `sel` names a RO register (R72). -/
  | readOnly
  /-- `sel` is not below N in Format C (R60). -/
  | noChannel
deriving DecidableEq, Repr

/-- The field `opcode`, `cmd[31:24]` (R57). -/
def opcodeField (cmd : Word) : BitVec 8 := cmd.extractLsb' 24 8

/-- The field `sel`, `cmd[23:16]` (R57), taken as it stands (R61). -/
def selField (cmd : Word) : BitVec 8 := cmd.extractLsb' 16 8

/-- The field `zero`, `cmd[15:0]` (R57). -/
def zeroField (cmd : Word) : BitVec 16 := cmd.extractLsb' 0 16

/-- Format N: no selector (R58). -/
def formatN (cmd : Word) (i : Instr) : Except Illegal Instr :=
  if selField cmd = 0#8 then .ok i else .error .nonzeroSel

/-- Format C: a channel index (R60). -/
def formatC (cmd : Word) (mk : ChannelNumber → Instr) (c : Config := .hardware) : Except Illegal Instr :=
  match channelAt 0 (selField cmd).toNat c with
  | some ch => .ok (mk ch)
  | none => .error .noChannel

/-- `decode` of R63, total on command words, for a configuration; `wdata` takes no part in the choice. -/
def decode (cmd wdata : Word) (c : Config := .hardware) : Except Illegal Instr :=
  if zeroField cmd ≠ 0#16 then .error .nonzeroLow
  else
    match (opcodeField cmd).toNat with
    | 0x01 =>
      match Reg.ofNumber (selField cmd) c with
      | none => .error .noRegister
      | some reg => if reg.writable then .ok (.wr reg wdata) else .error .readOnly
    | 0x02 =>
      match Reg.ofNumber (selField cmd) c with
      | none => .error .noRegister
      | some reg => .ok (.rd reg)
    | 0x10 => formatN cmd .cpre
    | 0x11 => formatN cmd .cpac
    | 0x20 => formatN cmd .apply
    | 0x21 => formatC cmd .chon c
    | 0x22 => formatC cmd .choff c
    | _ => .error .reservedOpcode

/-- The word with the given `opcode` and `sel` and `zero` all zero (R57). -/
def commandWord (opcode sel : BitVec 8) : Word := opcode ++ sel ++ 0#16

/-- The two words of a transaction that carry a command, `(cmd, wdata)` (R68). -/
def encode : Instr → Word × Word
  | .wr reg wdata => (commandWord 0x01 reg.number, wdata)
  | .rd reg => (commandWord 0x02 reg.number, 0)
  | .cpre => (commandWord 0x10 0, 0)
  | .cpac => (commandWord 0x11 0, 0)
  | .apply => (commandWord 0x20 0, 0)
  | .chon ch => (commandWord 0x21 (BitVec.ofNat 8 ch.val), 0)
  | .choff ch => (commandWord 0x22 (BitVec.ofNat 8 ch.val), 0)

/-- One row of the table of R62. -/
structure OpcodeRow where
  /-- The mnemonic. -/
  mnemonic : String
  /-- The bits a word of the row has under `mask`. -/
  pattern : Word
  /-- The bits that are compared. -/
  mask : Word
deriving DecidableEq, Repr

/-- The row of a command in the table of R62. -/
def Instr.row : Instr → OpcodeRow
  | .wr _ _ => ⟨"WR", 0x01000000, 0xFF00FFFF⟩
  | .rd _ => ⟨"RD", 0x02000000, 0xFF00FFFF⟩
  | .cpre => ⟨"CPRE", 0x10000000, 0xFFFFFFFF⟩
  | .cpac => ⟨"CPAC", 0x11000000, 0xFFFFFFFF⟩
  | .apply => ⟨"APPLY", 0x20000000, 0xFFFFFFFF⟩
  | .chon _ => ⟨"CHON", 0x21000000, 0xFF00FFFF⟩
  | .choff _ => ⟨"CHOFF", 0x22000000, 0xFF00FFFF⟩

/-- `w AND mask = match` (R62). -/
def OpcodeRow.selects (row : OpcodeRow) (cmd : Word) : Bool := cmd &&& row.mask = row.pattern

/-- The instruction the decoder reads from a table row's bits: the command word first, the data word above
it, every bit from `nbits` up zero. -/
def decodeTableWord (nbits w : Nat) : Option Instr :=
  (decode (BitVec.ofNat 32 (w % 2 ^ nbits)) (BitVec.ofNat 32 ((w % 2 ^ nbits) / 2 ^ 32))).toOption

end Sys2Proof
end

