-- ==== Sys2Proof/Machine/Peripheral.lean ====
section
/-! DEFINITION. The timer peripheral as the engine sees it: its state `P` (R27), the seven operations of the
Peripheral Register Abstraction (R42), their answers, and the fault oracles of R42. Types only: what an
operation does stands in Machine/Timer.lean. -/

namespace Sys2Proof.Machine

/-- The peripheral state record `P` (R27 to R33), owned by the timer; the engine changes it only through the
seven operations, the timer counter agent changes `cnt` and the two active copies, the host `cntEn`. -/
structure Periph (c : Config := .hardware) where
  /-- `P.clk_en` (R28). -/
  clkEn : Bool
  /-- `P.psc` (R29). -/
  psc : TimerWord c
  /-- `P.arr`, the programmed period (R30). -/
  arr : TimerWord c
  /-- `P.arr_preload` (R30). -/
  arrPreload : Bool
  /-- `P.arr_active`, the period the counter compares against (R30). -/
  arrActive : TimerWord c
  /-- `P.ccr[i]`, the programmed compare values (R31). -/
  ccr : Vector (TimerWord c) c.N
  /-- `P.ccr_preload[i]` (R31). -/
  ccrPreload : Vector Bool c.N
  /-- `P.ccr_active[i]`, the compare values the outputs are formed from (R31). -/
  ccrActive : Vector (TimerWord c) c.N
  /-- `P.oe[i]`, the output enables (R32). -/
  oe : Vector Bool c.N
  /-- `P.cnt_en`, the counter has been started by the host (R33). -/
  cntEn : Bool
  /-- `P.cnt`, the counter (R33). -/
  cnt : TimerWord c
deriving DecidableEq, Repr, Inhabited

/-- The seven operations of the Peripheral Register Abstraction with their arguments (R42). -/
inductive PeriphOp (c : Config := .hardware) where
  /-- `enableClock()` (R43). -/
  | enableClock
  /-- `setPrescaler(value)` (R44). -/
  | setPrescaler (value : TimerWord c)
  /-- `setPeriod(value)` (R45). -/
  | setPeriod (value : TimerWord c)
  /-- `enablePeriodPreload()` (R46). -/
  | enablePeriodPreload
  /-- `setChannelCompare(channel, value)` (R47). -/
  | setChannelCompare (ch : Channel c) (value : TimerWord c)
  /-- `enableChannelPreload(channel)` (R48). -/
  | enableChannelPreload (ch : Channel c)
  /-- `setChannelOutputEnabled(channel, bool)` (R49). -/
  | setChannelOutputEnabled (ch : Channel c) (on : Bool)
deriving DecidableEq, Repr

/-- What a peripheral operation returns (R42). -/
inductive Answer where
  /-- The operation was performed. -/
  | ok
  /-- The operation faulted and changed nothing. -/
  | fault
deriving DecidableEq, Repr, Inhabited

/-- One operation as it was issued, with its answer: an entry of the list that R133 makes observable. -/
structure OpRecord (c : Config := .hardware) where
  /-- The operation. -/
  op : PeriphOp c
  /-- Its answer. -/
  answer : Answer
deriving DecidableEq, Repr

/-- The parameter `FaultOracle` (R42) as plain data: the four oracles the spec names, and a free one. -/
inductive FaultOracle where
  /-- Every operation answers `ok`. -/
  | neverFault
  /-- `enableClock` answers `ok`, every other operation `fault` while `P.clk_en` is false. -/
  | clockGated
  /-- Every operation, `enableClock` included, answers `fault`. -/
  | alwaysFault
  /-- The `k`-th operation issued since the start of the run answers `fault`, every other one `ok`. -/
  | faultAt (k : Nat)
  /-- Any oracle at all: the next operations get these answers, in turn, and those after the last of
  them the free answers of `Config.faultOracle`. Whatever an oracle looks at, what it says along one run is
  such a list, so a claim about every list is a claim about every oracle. -/
  | answers (next : List Answer)
deriving DecidableEq, Repr

end Sys2Proof.Machine
end

