-- ==== Sys2Proof/Config.lean ====
section
/-! DEFINITION. What the spec leaves free (R7, 93_implementation_defined.md): constants without a body, so
that nothing can be proved of their values. -/

namespace Sys2Proof.Config

/-- `PeriphInit` (R7, R37, U9): the state of the peripheral when the engine leaves reset. -/
opaque periphInit (c : Config) : Machine.Periph c

/-- `ClockSource` (R7, R50, U8): what the clock frequency port answers to the `n`-th query of a run, where
the state lists no answer to come. -/
opaque clockSource (c : Config) (n : Nat) : Frequency c

/-- `FaultOracle` (R7, R42, U6): what an operation answers where the state lists no answer to come. It may
look at every operation issued before, at `P`, at the operation and at its arguments. -/
opaque faultOracle (c : Config) (before : List (Machine.OpRecord c)) (p : Machine.Periph c)
  (op : Machine.PeriphOp c) : Machine.Answer

/-- How many ticks of the timer counter fall just before the peripheral operation that is the `n`-th of the run,
where the state does not list it (R53, R108). -/
opaque ticksBetween (c : Config) (n : Nat) : Nat

/-- The counter after a tick that finds it above the active period, which R110 leaves unspecified (U12):
the tick is the `n`-th of the run. -/
opaque overrunCount (c : Config) (n : Nat) (p : Machine.Periph c) : TimerWord c

/-- Whether a tick that finds the counter above the active period is also an update event (R110, U12). -/
opaque overrunUpdates (c : Config) (n : Nat) (p : Machine.Periph c) : Bool

end Sys2Proof.Config
end

