-- ==== Sys2Proof/Machine/State.lean ====
section
/-! DEFINITION. The state of the machine (R13): the engine's register file (R14), the peripheral record `P`
(R27), and, as the model's own fields, what the outside world does next and what it has seen so far. Each type takes the configuration of R7. -/

namespace Sys2Proof.Machine

/-- The response codes (R94). -/
inductive Code where
  /-- The command did all it was asked. -/
  | ok
  /-- R95. -/
  | prescalerOverflow
  /-- R96. -/
  | periodOverflow
  /-- R97. -/
  | invalidDutyCycle
  /-- R98. -/
  | hardwareApplyError
  /-- R100. -/
  | preconditionViolated
  /-- R101. -/
  | notReady
  /-- R102. -/
  | illegalCommand
deriving DecidableEq, Repr

/-- What the engine answers to a transaction: `code` and `rdata` (R56). -/
structure Response where
  /-- The response code. -/
  code : Code
  /-- The read data. -/
  rdata : Word
deriving DecidableEq, Repr

/-- The engine's register file (R14). PARAM is a constant and is not stored (R16). -/
structure Engine (c : Config := .hardware) where
  /-- STATUS (R15). -/
  status : Word
  /-- TGTF (R17). -/
  tgtf : Word
  /-- CNTF (R18). -/
  cntf : Word
  /-- OUTF (R19). -/
  outf : Word
  /-- CHEN (R20). -/
  chen : Word
  /-- PSC (R22). -/
  psc : Word
  /-- ARR (R23). -/
  arr : Word
  /-- PREM (R22). -/
  prem : Word
  /-- AREM (R23). -/
  arem : Word
  /-- CLKS (R22). -/
  clks : Word
  /-- APSC (R25). -/
  apsc : Word
  /-- AARR (R25). -/
  aarr : Word
  /-- DUTY(0) to DUTY(N-1) (R21). -/
  duty : Vector Word c.N
  /-- CMP(0) to CMP(N-1) (R23). -/
  cmp : Vector Word c.N
deriving DecidableEq, Repr

/-- The register values after reset: zero in every one that is stored (R36). -/
def Engine.reset (c : Config := .hardware) : Engine c where
  status := 0
  tgtf := 0
  cntf := 0
  outf := 0
  chen := 0
  psc := 0
  arr := 0
  prem := 0
  arem := 0
  clks := 0
  apsc := 0
  aarr := 0
  duty := Vector.replicate c.N 0
  cmp := Vector.replicate c.N 0

/-- The free inputs of a command's execution (R13), as data the state lists: the model's own fields. -/
structure Env (c : Config := .hardware) where
  /-- What the clock frequency port answers to the next queries (R50); after the last, `Config.clockSource`. -/
  clock : List (Frequency c)
  /-- How many queries have been made. -/
  queries : Nat
  /-- What decides whether an operation faults (R42). -/
  faults : FaultOracle
  /-- How many ticks of the timer counter fall just before each of the next peripheral operations of
  the commands to come (R53, R108); after the last listed, `Config.ticksBetween`. -/
  ticks : List Nat
  /-- How many ticks have passed: the argument of the free values of a tick (U12). -/
  elapsed : Nat
deriving DecidableEq, Repr

/-- What the outside world does to the machine between two commands (R8). -/
inductive Input (c : Config := .hardware) where
  /-- The host issues a transaction on the command port (R56). -/
  | command (cmd wdata : Word)
  /-- The reset input becomes asserted (R119). -/
  | assertReset
  /-- The reset input is released (R119). -/
  | releaseReset
  /-- The host starts the counter, at the peripheral (R33). The value the counter then has is any value (U13). -/
  | startCounter (cnt : TimerWord c)
  /-- The host stops the counter, at the peripheral (R92). -/
  | stopCounter
  /-- The timer counter ticks (R110). -/
  | tick
deriving DecidableEq, Repr

/-- The whole state. `eng` and `periph` are the spec's (R13 a and b); the other fields are the model's own. -/
structure State (c : Config := .hardware) where
  /-- The engine's registers. -/
  eng : Engine c
  /-- The peripheral's state. -/
  periph : Periph c
  /-- The reset input is asserted (R119). -/
  inReset : Bool
  /-- The free inputs of the commands to come. -/
  env : Env c
  /-- What the outside world does next, in order. -/
  inputs : List (Input c)
  /-- The responses returned so far, in order (R133). -/
  responses : List Response
  /-- The peripheral operations issued so far with their answers, in order (R133). -/
  trace : List (OpRecord c)
deriving DecidableEq, Repr

/-- Why the machine stops with a fault: never. Every command of R62 and every other word ends with a response
(R104 'no error makes it stuck', R132 'every command terminates'), and the errors of R94 are next states.
There is no constructor, so nobody raises one, which is safe. -/
inductive Fault where
deriving DecidableEq, Repr

/-- Why the model gives a step no meaning. -/
inductive Refusal where
  /-- An instruction without a meaning would be refused by this name in its arm of `exec`; every instruction
  has its meaning, so no arm raises it. Safe. -/
  | notModelled (mnemonic : String)
deriving DecidableEq, Repr

/-- The machine when the engine has left its reset: the registers of R36, the peripheral at the free
parameter `PeriphInit` (R37), no input yet, nothing listed of the free inputs, nothing observed. -/
def State.reset : State where
  eng := Engine.reset
  periph := Config.periphInit .hardware
  inReset := false
  env := { clock := [], queries := 0, faults := .answers [], ticks := [], elapsed := 0 }
  inputs := []
  responses := []
  trace := []

end Sys2Proof.Machine
end

