-- ==== Sys2Proof/Machine/Arith.lean ====
section
/-! DEFINITION. The arithmetic of the derivations, exact on naturals (R9, R77 to R80). -/

namespace Sys2Proof.Machine

/-- The outcome of a checked derivation of a divider. -/
inductive Derived where
  /-- An input condition does not hold (R100). -/
  | precondition
  /-- The divider does not fit the timer's register (R95, R96). -/
  | overflow
  /-- The divider's register value and the remainder of the division. -/
  | value (v r : Nat)
deriving DecidableEq, Repr

/-- The divider that CPRE and CPAC derive: the truncated quotient minus one, with its remainder; the
conditions are tested before the division, the range after it (R74, R75, R77, R79, R80). -/
def derive (c : Config) (num den : Nat) : Derived :=
  if den = 0 ∨ num = 0 ∨ num < den then .precondition
  else if num / den - 1 > c.regMax then .overflow
  else .value (num / den - 1) (num % den)

/-- `round(x / 2^k)` for `k > 0` (R78): to the nearest, a tie by the rule given. -/
def roundShift (tie : RoundTie) (x k : Nat) : Nat :=
  match tie with
  | .up => (x + 2 ^ (k - 1)) / 2 ^ k
  | .toEven =>
    if x % 2 ^ k = 2 ^ (k - 1) ∧ x / 2 ^ k % 2 = 0 then x / 2 ^ k else (x + 2 ^ (k - 1)) / 2 ^ k

/-- The compare value of a period and a raw duty with `df` fractional bits (R75, R78), under a tie rule. -/
def compareWith (tie : RoundTie) (df per d : Nat) : Nat := roundShift tie (per * d) df

/-- The compare value that CPAC derives (R75, R78). -/
def compareValue (c : Config) (per d : Nat) : Nat := compareWith c.roundTie c.DF per d

/-- A raw duty stands for a fraction in [0, 1] (R11, R97). -/
def dutyLegal (c : Config) (d : Word) : Bool := d.toNat ≤ c.dutyOne

end Sys2Proof.Machine
end

