-- ==== Sys2Proof/Machine/Flags.lean ====
section
/-! DEFINITION. The fields of STATUS (R15) and PARAM (R16), the flags (R26), and the numbers of the response
codes (R94). -/

namespace Sys2Proof.Machine

variable {c : Config}

/-- Bit `k` of `w` made `b`, the other bits kept. -/
def setBit (w : Word) (k : Nat) (b : Bool) : Word :=
  if b then w ||| (1#32 <<< k) else w &&& ~~~(1#32 <<< k)

/-- The number of a response code (R94). -/
def Code.num : Code → BitVec 4
  | .ok => 0
  | .prescalerOverflow => 1
  | .periodOverflow => 2
  | .invalidDutyCycle => 3
  | .hardwareApplyError => 4
  | .preconditionViolated => 5
  | .notReady => 6
  | .illegalCommand => 7

/-- `STATUS.CODE`, bits 3:0 (R15). -/
def Engine.code (e : Engine c) : BitVec 4 := e.status.extractLsb' 0 4

/-- `STATUS.PSCV`, bit 4 (R15). -/
def Engine.pscv (e : Engine c) : Bool := e.status.getLsbD 4

/-- `STATUS.CFGV`, bit 5 (R15). -/
def Engine.cfgv (e : Engine c) : Bool := e.status.getLsbD 5

/-- `STATUS.CONF`, bit 6 (R15). -/
def Engine.conf (e : Engine c) : Bool := e.status.getLsbD 6

/-- `STATUS.CODE <- c`: bits 31:4 are kept. -/
def Engine.setCode (e : Engine c) (code : Code) : Engine c :=
  { e with status := e.status.extractLsb' 4 28 ++ code.num }

/-- `STATUS.PSCV <- b`. -/
def Engine.setPscv (e : Engine c) (b : Bool) : Engine c := { e with status := setBit e.status 4 b }

/-- `STATUS.CFGV <- b`. -/
def Engine.setCfgv (e : Engine c) (b : Bool) : Engine c := { e with status := setBit e.status 5 b }

/-- `STATUS.CONF <- b`. -/
def Engine.setConf (e : Engine c) (b : Bool) : Engine c := { e with status := setBit e.status 6 b }

/-- PARAM: FW, DF, W and N, a byte each (R16). -/
def paramWord (c : Config := .hardware) : Word :=
  BitVec.ofNat 8 c.FW ++ BitVec.ofNat 8 c.DF ++ BitVec.ofNat 8 c.W ++ BitVec.ofNat 8 c.N

end Sys2Proof.Machine
end

