-- ==== Sys2Proof/Machine/Operands.lean ====
section
/-! DEFINITION. Reading and writing the engine's registers by name (R10 `x[i]`, R39), the enable flags of CHEN
(R20), and the lifecycle view (R34). -/

namespace Sys2Proof.Machine

variable {c : Config}

/-- `x[reg]`: all 32 bits of a register (R39), or none where no register is; PARAM is its constant (R16). -/
def Engine.read (e : Engine c) : Reg → Option Word
  | .status => some e.status
  | .param => some (paramWord c)
  | .tgtf => some e.tgtf
  | .cntf => some e.cntf
  | .outf => some e.outf
  | .chen => some e.chen
  | .psc => some e.psc
  | .arr => some e.arr
  | .prem => some e.prem
  | .arem => some e.arem
  | .clks => some e.clks
  | .apsc => some e.apsc
  | .aarr => some e.aarr
  | .duty i => (c.channel i).map fun ch => e.duty[ch]
  | .cmp i => (c.channel i).map fun ch => e.cmp[ch]

/-- The bits of a word that CHEN keeps: `zext_32(wdata[N-1:0])` (R20, R72). -/
def chenMask (c : Config) (wdata : Word) : Word := (wdata.extractLsb' 0 c.N).setWidth 32

/-- The store of WR (R72): a RW register takes the word whole, CHEN its low N bits; the host writes no other
register. -/
def Engine.hostWrite (e : Engine c) (wdata : Word) : Reg → Engine c
  | .tgtf => { e with tgtf := wdata }
  | .cntf => { e with cntf := wdata }
  | .outf => { e with outf := wdata }
  | .chen => { e with chen := chenMask c wdata }
  | .duty i =>
    match c.channel i with
    | some ch => { e with duty := e.duty.set ch.val wdata ch.isLt }
    | none => e
  | .status | .param | .psc | .arr | .prem | .arem | .clks | .apsc | .aarr | .cmp _ => e

/-- `R[CHEN][i]`, the enable flag of a channel (R20). -/
def Engine.enabled (e : Engine c) (i : Channel c) : Bool := e.chen.getLsbD i.val

/-- `R[CHEN][i] <- b` (R90, R91). -/
def Engine.setEnabled (e : Engine c) (i : Channel c) (b : Bool) : Engine c :=
  { e with chen := setBit e.chen i.val b }

/-- The lifecycle states (R34, R92). -/
inductive Lifecycle where
  /-- `STATUS.CONF = 0`. -/
  | unconfigured
  /-- `STATUS.CONF = 1` and the counter not started. -/
  | configured
  /-- `STATUS.CONF = 1` and the counter started. -/
  | running
deriving DecidableEq, Repr

/-- The lifecycle state as a view of `STATUS.CONF` and `P.cnt_en` (R34). -/
def State.lifecycle (s : State c) : Lifecycle :=
  if s.eng.conf then (if s.periph.cntEn then .running else .configured) else .unconfigured

end Sys2Proof.Machine
end

