-- ==== Sys2Proof/Machine/Timer.lean ====
section
/-! DEFINITION. The timer peripheral: the effect of an operation that answers `ok` (R43 to R49), the tick and
the update event (R110, R111), and what a configuration means (R109, R112 to R115). -/

namespace Sys2Proof.Machine

variable {c : Config}

/-- The effect on `P` of an operation that answers `ok` (R43 to R49). -/
def Periph.perform (p : Periph c) : PeriphOp c → Periph c
  | .enableClock => { p with clkEn := true }
  | .setPrescaler v => { p with psc := v }
  | .setPeriod v => { p with arr := v, arrActive := if p.arrPreload then p.arrActive else v }
  | .enablePeriodPreload => { p with arrPreload := true }
  | .setChannelCompare i v =>
    { p with
      ccr := p.ccr.set i.val v i.isLt
      ccrActive := if p.ccrPreload[i] then p.ccrActive else p.ccrActive.set i.val v i.isLt }
  | .enableChannelPreload i => { p with ccrPreload := p.ccrPreload.set i.val true i.isLt }
  | .setChannelOutputEnabled i b => { p with oe := p.oe.set i.val b i.isLt }

/-- The update event: every preloaded value is latched (R111). -/
def Periph.updateEvent (p : Periph c) : Periph c :=
  { p with
    arrActive := if p.arrPreload then p.arr else p.arrActive
    ccrActive := Vector.ofFn fun i : Channel c => if p.ccrPreload[i] then p.ccr[i] else p.ccrActive[i] }

/-- A tick that finds the counter above the active period: R110 leaves the counter's behaviour there
unspecified, so its next value is free, and so is whether the tick is an update event (U12). -/
def Periph.overrun (n : Nat) (p : Periph c) : Periph c :=
  let q := { p with cnt := Config.overrunCount c n p }
  if Config.overrunUpdates c n p then q.updateEvent else q

/-- One tick of the timer counter, the `n`-th of the run (R110). -/
def Periph.tick (n : Nat) (p : Periph c) : Periph c :=
  if p.cntEn = false then p
  else if p.cnt = p.arrActive then { p with cnt := 0 }.updateEvent
  else if p.cnt < p.arrActive then { p with cnt := p.cnt + 1 }
  else p.overrun n

/-- The tick as a step of the machine. -/
def State.tick (s : State c) : State c :=
  { s with periph := s.periph.tick s.env.elapsed, env := { s.env with elapsed := s.env.elapsed + 1 } }

/-- `n` ticks, one after the other. -/
def State.ticks : Nat → State c → State c
  | 0, s => s
  | n + 1, s => ticks n s.tick

/-- The host starts the counter (R33): the value it then has is any value (U13), and no preloaded value is
transferred (R111, O3). -/
def State.startCounter (cnt : TimerWord c) (s : State c) : State c :=
  { s with periph := { s.periph with cntEn := true, cnt := cnt } }

/-- The host stops the counter (R92). -/
def State.stopCounter (s : State c) : State c :=
  { s with periph := { s.periph with cntEn := false } }

/-- The output of a channel: asserted or not while the channel is enabled (R112), without a value while it is
disabled (R113 `OUT_DISABLED_LEVEL`). -/
def Periph.output (p : Periph c) (i : Channel c) : Option Bool :=
  if p.oe[i] then some (p.cnt < p.ccrActive[i]) else none

/-- Cycles of the input clock in one tick (R109). From when on a newly written `P.psc` counts is
`PSC_EFFECT`, which is open: this is the rate the programmed value stands for. -/
def Periph.clocksPerTick (p : Periph c) : Nat := p.psc.toNat + 1

/-- Ticks in one cycle of the counter (R110). -/
def Periph.ticksPerCycle (p : Periph c) : Nat := p.arrActive.toNat + 1

/-- Cycles of the input clock in one PWM cycle: the PWM frequency is the input frequency divided by
this (R115). -/
def Periph.clocksPerCycle (p : Periph c) : Nat := p.clocksPerTick * p.ticksPerCycle

/-- The seven programmed fields, the 'final register state' of the document's properties (R27, R133). -/
structure Programmed (c : Config := .hardware) where
  /-- `P.clk_en`. -/
  clkEn : Bool
  /-- `P.psc`. -/
  psc : TimerWord c
  /-- `P.arr`. -/
  arr : TimerWord c
  /-- `P.arr_preload`. -/
  arrPreload : Bool
  /-- `P.ccr[i]`. -/
  ccr : Vector (TimerWord c) c.N
  /-- `P.ccr_preload[i]`. -/
  ccrPreload : Vector Bool c.N
  /-- `P.oe[i]`. -/
  oe : Vector Bool c.N
deriving DecidableEq, Repr

/-- The programmed fields of `P`. -/
def Periph.programmed (p : Periph c) : Programmed c :=
  { clkEn := p.clkEn, psc := p.psc, arr := p.arr, arrPreload := p.arrPreload
    ccr := p.ccr, ccrPreload := p.ccrPreload, oe := p.oe }

end Sys2Proof.Machine
end

