-- ==== Sys2Proof/Machine/Ops.lean ====
section
/-! DEFINITION. The primitives of the command rules (R10): the clock query (R50), the peripheral operation
(R42), and how a command ends, which is also what taking an exception is on this hardware (R99). -/

namespace Sys2Proof.Machine

variable {c : Config}

/-- What every meaning answers: three outcomes, of which this hardware shows only the first. -/
abbrev Outcome (c : Config := .hardware) := Host.Outcome (State c) Fault Refusal

/-- The answer of the clock frequency port to a query made now (R50). -/
def State.clockAnswer (s : State c) : Frequency c :=
  s.env.clock.headD (Config.clockSource c s.env.queries)

/-- The state after a query: the answer is used up (R50). -/
def State.queryClock (s : State c) : State c :=
  { s with env := { s.env with clock := s.env.clock.tail, queries := s.env.queries + 1 } }

/-- What an oracle says to an operation (R42). `before` are the operations issued since the start of the run. -/
def FaultOracle.answer (o : FaultOracle) (before : List (OpRecord c)) (p : Periph c)
    (op : PeriphOp c) : Answer :=
  match o with
  | .neverFault => .ok
  | .clockGated => if op = .enableClock ∨ p.clkEn = true then .ok else .fault
  | .alwaysFault => .fault
  | .faultAt k => if before.length + 1 = k then .fault else .ok
  | .answers next => next.headD (Config.faultOracle c before p op)

/-- The oracle after an operation: an answer that was listed is used up. -/
def FaultOracle.advance : FaultOracle → FaultOracle
  | .answers next => .answers next.tail
  | .neverFault => .neverFault
  | .clockGated => .clockGated
  | .alwaysFault => .alwaysFault
  | .faultAt k => .faultAt k

/-- The ticks of the timer counter that fall just before the next peripheral operation (R53, R108): as many as
the state lists, else any number. -/
def State.ticksBefore (s : State c) : State c :=
  let t := s.ticks (s.env.ticks.headD (Config.ticksBetween c s.trace.length))
  { t with env := { t.env with ticks := t.env.ticks.tail } }

/-- What the next operation is answered (R42). -/
def State.answerOf (op : PeriphOp c) (s : State c) : Answer :=
  s.env.faults.answer s.trace s.ticksBefore.periph op

/-- The state after `PeriphOp(op)` (R42): the effect on `P` only if the answer was `ok`. -/
def State.afterOp (op : PeriphOp c) (s : State c) : State c :=
  let t := s.ticksBefore
  { t with
    periph := if s.answerOf op = .ok then t.periph.perform op else t.periph
    env := { t.env with faults := t.env.faults.advance }
    trace := t.trace ++ [⟨op, s.answerOf op⟩] }

/-- Operations one after the other, up to the first that answers `fault` (R86 `op!`, R88). -/
def runOps : List (PeriphOp c) → State c → Answer × State c
  | [], s => (.ok, s)
  | op :: rest, s =>
    match s.answerOf op with
    | .ok => runOps rest (s.afterOp op)
    | .fault => (.fault, s.afterOp op)

/-- The engine returns the response to the command it has executed (R56). -/
def State.respond (code : Code) (rdata : Word) (s : State c) : State c :=
  { s with responses := s.responses ++ [⟨code, rdata⟩] }

/-- `STATUS.CODE <- c`. -/
def State.setCode (code : Code) (s : State c) : State c := { s with eng := s.eng.setCode code }

/-- `complete OK(0)` after `STATUS.CODE <- OK`, the end of every command that succeeds but for RD (R10). -/
def completeOk (s : State c) : Outcome c := .next ((s.setCode .ok).respond .ok 0)

/-- `complete OK(rdata)` without a write of STATUS: the end of a legal RD (R73). -/
def completeRead (rdata : Word) (s : State c) : Outcome c := .next (s.respond .ok rdata)

/-- `raise c` (R99), the whole of taking an exception: STATUS.CODE takes the code, what was done before the
raise stays, nothing after it is done, and the response is `(c, 0)`. There is nothing to return to or from: the
next command finds the engine ready (R104). -/
def raise (code : Code) (s : State c) : Outcome c := .next ((s.setCode code).respond code 0)

end Sys2Proof.Machine
end

