-- ==== Sys2Proof/Machine/Derivation.lean ====
section
/-! DEFINITION. The derivation commands CPRE and CPAC (41_derivation.md). -/

namespace Sys2Proof.Machine

variable {c : Config}

/-- CPRE (R74). -/
def execCpre (s : State c) : Outcome c :=
  let clk := s.clockAnswer
  let q := s.queryClock
  let e := { q.eng with clks := clk.setWidth 32 }
  match derive c clk.toNat e.tgtf.toNat with
  | .precondition => raise .preconditionViolated { q with eng := e.setPscv false }
  | .overflow => raise .prescalerOverflow { q with eng := e.setPscv false }
  | .value p r =>
    completeOk { q with eng := { e with psc := BitVec.ofNat 32 p, prem := BitVec.ofNat 32 r }.setPscv true }

/-- The compare values of all channels (R75). -/
def compares (c : Config) (per : Nat) (duty : Vector Word c.N) : Vector Word c.N :=
  Vector.ofFn fun i : Channel c => BitVec.ofNat 32 (compareValue c per duty[i].toNat)

/-- CPAC (R75). -/
def execCpac (s : State c) : Outcome c :=
  let e := s.eng
  match derive c e.cntf.toNat e.outf.toNat with
  | .precondition => raise .preconditionViolated { s with eng := e.setCfgv false }
  | .overflow => raise .periodOverflow { s with eng := e.setCfgv false }
  | .value per r =>
    if ∀ i : Channel c, dutyLegal c e.duty[i] = true then
      completeOk { s with
        eng := { e with
          cmp := compares c per e.duty
          arr := BitVec.ofNat 32 per
          arem := BitVec.ofNat 32 r }.setCfgv true }
    else raise .invalidDutyCycle { s with eng := e.setCfgv false }

end Sys2Proof.Machine
end

