-- ==== Sys2Proof/Machine/PeripheralCommands.lean ====
section
/-! DEFINITION. The peripheral commands APPLY, CHON and CHOFF (42_apply.md). -/

namespace Sys2Proof.Machine

variable {c : Config}

/-- APPLY takes the full path: nothing applied yet, or another prescaler or period than the applied one (R86). -/
def Engine.fullPath (e : Engine c) : Bool :=
  e.conf = false ∨ e.psc ≠ e.apsc ∨ e.arr ≠ e.aarr

/-- The value the engine passes to a timer register: it is at most REG_MAX, so no bit is lost (R44). -/
def timerWord (c : Config) (w : Word) : TimerWord c := w.setWidth c.W

/-- All channels in ascending order (R10). -/
def channels (c : Config := .hardware) : List (Channel c) := List.finRange c.N

/-- The operations on the clock, the prescaler and the period, first on the full path (R86). -/
def sharedOps (e : Engine c) : List (PeriphOp c) :=
  [.enableClock, .setPrescaler (timerWord c e.psc), .setPeriod (timerWord c e.arr), .enablePeriodPreload]

/-- The operations on one channel's compare register; the preload is armed on the full path only (R86). -/
def compareOps (full : Bool) (e : Engine c) (i : Channel c) : List (PeriphOp c) :=
  .setChannelCompare i (timerWord c e.cmp[i]) :: (if full then [.enableChannelPreload i] else [])

/-- The operation on one channel's output enable (R86). -/
def enableOp (e : Engine c) (i : Channel c) : PeriphOp c := .setChannelOutputEnabled i (e.enabled i)

/-- The operations of an APPLY in their order (R86). -/
def applyOps (e : Engine c) : List (PeriphOp c) :=
  (if e.fullPath then sharedOps e else []) ++
    (channels c).flatMap (compareOps e.fullPath e) ++ (channels c).map (enableOp e)

/-- What a command does when a peripheral operation has faulted (R86 `op!`, R88, R90, R91). -/
def applyError (s : State c) : Outcome c := raise .hardwareApplyError { s with eng := s.eng.setConf false }

/-- The engine's registers when every operation of an APPLY has answered `ok` (R86): the applied record and CONF. -/
def Engine.applied (e : Engine c) : Engine c := { e with apsc := e.psc, aarr := e.arr }.setConf true

/-- APPLY (R86). -/
def execApply (s : State c) : Outcome c :=
  if s.eng.pscv = false ∨ s.eng.cfgv = false then raise .notReady s
  else
    match runOps (applyOps s.eng) s with
    | (.fault, t) => applyError t
    | (.ok, t) => completeOk { t with eng := t.eng.applied }

/-- One channel's output switched after configuration, what CHON and CHOFF have in common (R90, R91). -/
def switchChannel (ch : Channel c) (on : Bool) (s : State c) : Outcome c :=
  if s.eng.conf = false then raise .notReady s
  else
    match runOps [.setChannelOutputEnabled ch on] s with
    | (.fault, t) => applyError t
    | (.ok, t) => completeOk { t with eng := t.eng.setEnabled ch on }

/-- CHON (R90). An index that is not below N is refused in decode; the rule's own test stands here too. -/
def execChon (ch : ChannelNumber) (s : State c) : Outcome c :=
  match c.channel ch with
  | some i => switchChannel i true s
  | none => raise .illegalCommand s

/-- CHOFF (R91), with the same test. -/
def execChoff (ch : ChannelNumber) (s : State c) : Outcome c :=
  match c.channel ch with
  | some i => switchChannel i false s
  | none => raise .illegalCommand s

end Sys2Proof.Machine
end

