-- ==== Sys2Proof/Machine/RegAccess.lean ====
section
/-! DEFINITION. The register access commands WR and RD (40_register_access.md). -/

namespace Sys2Proof.Machine

variable {c : Config}

/-- WR (R72). A number without a register and a RO register are refused in decode; the rule's own test stands
here too. -/
def execWr (reg : Reg) (wdata : Word) (s : State c) : Outcome c :=
  if reg.present c && reg.writable then completeOk { s with eng := s.eng.hostWrite wdata reg }
  else raise .illegalCommand s

/-- RD (R73): no state changes, STATUS.CODE included. -/
def execRd (reg : Reg) (s : State c) : Outcome c :=
  match s.eng.read reg with
  | some v => completeRead v s
  | none => raise .illegalCommand s

end Sys2Proof.Machine
end

