-- ==== Sys2Proof/Machine/Dispatch.lean ====
section
/-! DEFINITION. Which meaning each command has (R62). -/

namespace Sys2Proof.Machine

def exec (i : Instr) (s : State) : Host.Outcome State Fault Refusal :=
  match i with
  | .wr reg wdata => Sys2Proof.Machine.execWr reg wdata s
  | .rd reg => Sys2Proof.Machine.execRd reg s
  | .cpre => Sys2Proof.Machine.execCpre s
  | .cpac => Sys2Proof.Machine.execCpac s
  | .apply => Sys2Proof.Machine.execApply s
  | .chon ch => Sys2Proof.Machine.execChon ch s
  | .choff ch => Sys2Proof.Machine.execChoff ch s

end Sys2Proof.Machine
end

