-- ==== Sys2Proof/Machine/Port.lean ====
section
/-! DEFINITION. The command port (R56) and what else the outside world does to the machine (R8). -/

namespace Sys2Proof.Machine

/-- One transaction: a legal word's command is executed, an illegal one raises IllegalCommand (R63, R64). -/
def runCommand (cmd wdata : Word) (s : State) : Outcome :=
  match decode cmd wdata with
  | .ok i => exec i s
  | .error _ => raise .illegalCommand s

/-- One input takes effect. A command is accepted only while the reset input is not asserted; reset
restores the engine's registers and leaves the peripheral as it is (R119). -/
def accept (input : Input) (s : State) : Outcome :=
  match input with
  | .command cmd wdata => if s.inReset then .next s else runCommand cmd wdata s
  | .assertReset => .next { s with inReset := true, eng := Engine.reset }
  | .releaseReset => .next { s with inReset := false }
  | .startCounter cnt => .next (s.startCounter cnt)
  | .stopCounter => .next s.stopCounter
  | .tick => .next s.tick

/-- The next input of the outside world and the state without it. -/
def nextInput (s : State) : Option (Input × State) :=
  match s.inputs with
  | [] => none
  | input :: rest => some (input, { s with inputs := rest })

/-- A transaction put before the inputs to come, with the reset input released so that it is accepted. -/
def State.issue (cmd wdata : Word) (s : State) : State :=
  { s with inReset := false, inputs := .command cmd wdata :: s.inputs }

end Sys2Proof.Machine
end

