-- ==== Sys2Proof/Machine/Step.lean ====
section
/-! DEFINITION. One step of the machine: one input of the outside world takes effect, whole (R53, R55). -/

namespace Sys2Proof.Machine

/-- One step. With no input to come the engine waits for the host, unchanged (R24). -/
def step (s : State) : Host.Outcome State Fault Refusal :=
  match nextInput s with
  | none => .next s
  | some (input, t) => accept input t

/-- `s` with the transaction whose words are the bits of `w` issued next by the host: the command word in the
low 32 bits, the data word above it, every bit from `nbits` up zero. -/
def State.withFetchWord (s : State) (nbits w : Nat) : State :=
  s.issue (BitVec.ofNat 32 (w % 2 ^ nbits)) (BitVec.ofNat 32 ((w % 2 ^ nbits) / 2 ^ 32))

end Sys2Proof.Machine
end

