-- ==== Sys2Proof/Machine/Assembly.lean ====
section
/-! DEFINITION. The listing syntax (R68 to R71): register names, the percent literal, the lines of a listing
and the transactions they stand for. It is the assembler's convenience: the hardware sees the words. -/

namespace Sys2Proof

/-- The name of a register in a listing (R69). -/
def Reg.name : Reg → String
  | .status => "STATUS"
  | .param => "PARAM"
  | .tgtf => "TGTF"
  | .cntf => "CNTF"
  | .outf => "OUTF"
  | .chen => "CHEN"
  | .psc => "PSC"
  | .arr => "ARR"
  | .prem => "PREM"
  | .arem => "AREM"
  | .clks => "CLKS"
  | .apsc => "APSC"
  | .aarr => "AARR"
  | .duty i => "DUTY" ++ toString i.val
  | .cmp i => "CMP" ++ toString i.val

/-- The percent literal `k%`, for k from 0 to 100 (R71). -/
def percent (k : Nat) (c : Config := .hardware) : Word := BitVec.ofNat 32 ((k * 2 ^ c.DF + 50) / 100)

/-- The register operand of a line: a name or a number, which may name no register (R69). -/
inductive RegOperand where
  /-- A register by its name. -/
  | name (reg : Reg)
  /-- A register by its number. -/
  | number (n : BitVec 8)
deriving DecidableEq, Repr

/-- The number a register operand stands for. -/
def RegOperand.value : RegOperand → BitVec 8
  | .name reg => reg.number
  | .number n => n

/-- A line of a listing (R68), the pseudo-instruction DUTYALL of R70 among them. -/
inductive AsmLine where
  /-- `WR reg, value`. -/
  | wr (reg : RegOperand) (value : Word)
  /-- `RD reg`. -/
  | rd (reg : RegOperand)
  /-- `CPRE`. -/
  | cpre
  /-- `CPAC`. -/
  | cpac
  /-- `APPLY`. -/
  | apply
  /-- `CHON ch`. -/
  | chon (ch : BitVec 8)
  /-- `CHOFF ch`. -/
  | choff (ch : BitVec 8)
  /-- `DUTYALL value`. -/
  | dutyAll (value : Word)
deriving DecidableEq, Repr

/-- The transactions `(cmd, wdata)` a line stands for (R68, R70). -/
def AsmLine.assemble (line : AsmLine) (c : Config := .hardware) : List (Word × Word) :=
  match line with
  | .wr reg value => [(0x01000000#32 ||| (reg.value.setWidth 32 <<< 16), value)]
  | .rd reg => [(0x02000000#32 ||| (reg.value.setWidth 32 <<< 16), 0)]
  | .cpre => [(0x10000000, 0)]
  | .cpac => [(0x11000000, 0)]
  | .apply => [(0x20000000, 0)]
  | .chon ch => [(0x21000000#32 ||| (ch.setWidth 32 <<< 16), 0)]
  | .choff ch => [(0x22000000#32 ||| (ch.setWidth 32 <<< 16), 0)]
  | .dutyAll value =>
    (List.finRange c.N).map fun i =>
      (0x01000000#32 ||| ((Reg.duty (i.castLE c.channels_le)).number.setWidth 32 <<< 16), value)

/-- A listing as the host issues it: one transaction after the other (R24). -/
def assembleInputs (lines : List AsmLine) : List Machine.Input :=
  (lines.flatMap fun line => line.assemble).map fun t => .command t.1 t.2

/-- A word as eight upper-case hexadecimal digits (R68). -/
def hexWord (w : Word) : String :=
  String.ofList ((List.range 8).map fun k =>
    ("0123456789ABCDEF".toList).getD (w.toNat / 16 ^ (7 - k) % 16) '0')

/-- A transaction as a listing shows it: `cmd wdata` (R68). -/
def listing (t : Word × Word) : String := hexWord t.1 ++ " " ++ hexWord t.2

end Sys2Proof
end

