-- ==== Sys2Proof/Safety.lean ====
section
/-! DEFINITION. The terms in which claims about the machine are stated: what a command leaves unchanged, what a
run shows (R133), and what counts as a safe state. -/

namespace Sys2Proof.Machine

variable {c : Config}

/-- Every register but those listed reads the same after as before. -/
def Engine.sameBut (listed : List Reg) (before after : Engine c) : Prop :=
  ∀ r : Reg, r ∉ listed → after.read r = before.read r

/-- The bits of STATUS above CODE are the same, but for those listed: 4 is PSCV, 5 is CFGV, 6 is CONF (R15). -/
def Engine.sameStatusBut (listed : List Nat) (before after : Engine c) : Prop :=
  ∀ j, 4 ≤ j → j ∉ listed → after.status.getLsbD j = before.status.getLsbD j

/-- Nothing happened outside the engine: no peripheral operation, no tick, no clock query, no input used. -/
def State.sameOutside (s t : State c) : Prop :=
  t.periph = s.periph ∧ t.trace = s.trace ∧ t.env = s.env ∧ t.inputs = s.inputs ∧ t.inReset = s.inReset

/-- Nothing happened outside the engine but one query of the clock frequency port (R50). -/
def State.sameOutsideButQuery (s t : State c) : Prop :=
  t.periph = s.periph ∧ t.trace = s.trace ∧ t.inputs = s.inputs ∧ t.inReset = s.inReset ∧
    t.env = { s.env with clock := s.env.clock.tail, queries := s.env.queries + 1 }

/-- What a command that issued peripheral operations leaves unchanged outside the engine: the clock port,
the counter enable, the inputs to come and the reset input. -/
def State.sameAround (s t : State c) : Prop :=
  t.periph.cntEn = s.periph.cntEn ∧ t.env.clock = s.env.clock ∧ t.env.queries = s.env.queries ∧
    t.inputs = s.inputs ∧ t.inReset = s.inReset

/-- The one response a command has returned (R56). -/
def State.responded (s t : State c) (code : Code) (rdata : Word) : Prop :=
  t.responses = s.responses ++ [⟨code, rdata⟩]

/-- The oracle surely answers `ok` to all of these operations, issued next: it is `NeverFault`, or `ClockGated` with the
clock on or enabled by the first of them, or `FaultAt` with its one fault elsewhere, or it lists that many `ok`s. -/
def State.okFor (ops : List (PeriphOp c)) (s : State c) : Prop :=
  match s.env.faults with
  | .neverFault => True
  | .clockGated => s.periph.clkEn = true ∨ ops.head? = some .enableClock
  | .alwaysFault => ops = []
  | .faultAt k => k ≤ s.trace.length ∨ s.trace.length + ops.length < k
  | .answers next => List.replicate ops.length .ok <+: next

/-- The oracle surely answers `ok` to the first `k` of these operations, issued next, and `fault` to the one after. -/
def State.faultsAfter (k : Nat) (ops : List (PeriphOp c)) (s : State c) : Prop :=
  match s.env.faults with
  | .neverFault => False
  | .clockGated => k = 0 ∧ s.periph.clkEn = false ∧ ops.head? ≠ some .enableClock
  | .alwaysFault => k = 0
  | .faultAt m => m = s.trace.length + k + 1
  | .answers next => List.replicate k .ok ++ [.fault] <+: next

/-- Surely no tick of the timer counter falls before the next `n` operations: the counter is not started, or the state
lists none before each of them. -/
def State.quietFor (n : Nat) (s : State c) : Prop :=
  s.periph.cntEn = false ∨ List.replicate n 0 <+: s.env.ticks

/-- What the oracle answers to the next `n` operations is settled: it is one the spec names, or it lists that many
answers, so the free answers are not asked for. -/
def FaultOracle.settledFor (n : Nat) : FaultOracle → Prop
  | .answers next => n ≤ next.length
  | .neverFault | .clockGated | .alwaysFault | .faultAt _ => True

/-- Operations that all answered `ok`, as they stand in the trace. -/
def allOk (ops : List (PeriphOp c)) : List (OpRecord c) := ops.map fun op => ⟨op, .ok⟩

/-- The records of operations of which the first `k` answered `ok` and the next one `fault`. -/
def faultedAt (k : Nat) (ops : List (PeriphOp c)) : List (OpRecord c) :=
  allOk (ops.take k) ++ (ops[k]?.toList.map fun op => ⟨op, .fault⟩)

/-- The programmed fields that a list of operations, all answering `ok`, makes of `P`. -/
def Periph.programmedBy (p : Periph c) (ops : List (PeriphOp c)) : Programmed c :=
  (ops.foldl Periph.perform p).programmed

/-- What is observable at the end of a run (R133). -/
structure Observation (c : Config := .hardware) where
  /-- The responses, in order. -/
  responses : List Response
  /-- The engine's registers. -/
  eng : Engine c
  /-- The peripheral operations with their answers, in order. -/
  trace : List (OpRecord c)
  /-- The programmed fields of `P`. -/
  programmed : Programmed c
deriving DecidableEq, Repr

/-- The observable part of a state (R133). -/
def State.observe (s : State c) : Observation c :=
  { responses := s.responses, eng := s.eng, trace := s.trace, programmed := s.periph.programmed }

/-- The register file is legal: STATUS holds a code that is produced and reads zero above bit 6 (R15), CHEN
holds N bits (R20), every divider and compare value fits the timer's registers (R22, R23, R25, R80) and no
compare value is above the period (R23). -/
def Engine.wf (e : Engine c) : Prop :=
  e.status.toNat < 128 ∧ e.code.toNat ≤ 7 ∧ e.chen.toNat < 2 ^ c.N ∧
    e.psc.toNat ≤ c.regMax ∧ e.arr.toNat ≤ c.regMax ∧
    e.apsc.toNat ≤ c.regMax ∧ e.aarr.toNat ≤ c.regMax ∧
    ∀ i : Channel c, e.cmp[i].toNat ≤ e.arr.toNat

/-- While the engine is configured, the applied record describes the peripheral (R25): its clock is enabled,
it holds the applied prescaler and period, and every preload is armed (R28 to R31). -/
def State.recordHolds (s : State c) : Prop :=
  s.eng.conf = true →
    s.periph.clkEn = true ∧ s.periph.psc = timerWord c s.eng.apsc ∧ s.periph.arr = timerWord c s.eng.aarr ∧
      s.periph.arrPreload = true ∧ ∀ i : Channel c, s.periph.ccrPreload[i] = true

/-- The record is a compare write of the channel that was performed. -/
def OpRecord.loads (i : Channel c) (r : OpRecord c) : Prop :=
  ∃ v, r = ⟨.setChannelCompare i v, .ok⟩

/-- In a list of operations, no output is switched before a compare value of its channel has been loaded (R130). -/
def loadedBeforeSwitched (trace : List (OpRecord c)) : Prop :=
  ∀ before after i b a, trace = before ++ ⟨.setChannelOutputEnabled i b, a⟩ :: after →
    ∃ r ∈ before, r.loads i

/-- The run so far has switched no output before its compare value was loaded, and while the engine is
configured every channel has one (R87, R90, R130). -/
def State.switchesSafely (s : State c) : Prop :=
  loadedBeforeSwitched s.trace ∧ (s.eng.conf = true → ∀ i : Channel c, ∃ r ∈ s.trace, r.loads i)

end Sys2Proof.Machine
end

