-- ==== Sys2Proof/Certificates/Slice0/Obligations.lean ====
section
/-! DEFINITION. The statements about the machine, from the numbered rules of spec/. -/

open Sys2Proof Sys2Proof.Machine

/-! ### Decoding and encoding -/

/-- R57 to R62: the encoder and the decoder agree on every well-formed command, every operand included, for every
configuration. -/
def Obligations.DecodeOfEncodeIsTheCommand : Prop :=
  ∀ (c : Config) (i : Instr), i.wellFormed c = true → decode (encode i).1 (encode i).2 c = .ok i

/-- R63 to R65: a word has at most one command, and every bit of a legal command word is the encoder's, for every
configuration. -/
def Obligations.LegalWordsAreTheEncodersWords : Prop :=
  ∀ (c : Config) (cmd wdata : Word) (i : Instr), decode cmd wdata c = .ok i →
    i.wellFormed c = true ∧ (encode i).1 = cmd ∧ ∀ reg v, i = .wr reg v → v = wdata

/-- R63, case by case, for every configuration: which words decode to which command. -/
def Obligations.DecodeFollowsTheCaseList : Prop :=
  ∀ (c : Config) (cmd wdata : Word) (i : Instr),
    decode cmd wdata c = .ok i ↔
      cmd.toNat % 2 ^ 16 = 0 ∧
      ((cmd.toNat / 2 ^ 24 = 0x01 ∧
          ∃ reg : Reg, reg.number.toNat = cmd.toNat / 2 ^ 16 % 256 ∧ reg.present c = true ∧ reg.writable = true ∧
            i = .wr reg wdata) ∨
       (cmd.toNat / 2 ^ 24 = 0x02 ∧
          ∃ reg : Reg, reg.number.toNat = cmd.toNat / 2 ^ 16 % 256 ∧ reg.present c = true ∧ i = .rd reg) ∨
       (cmd.toNat / 2 ^ 24 = 0x10 ∧ cmd.toNat / 2 ^ 16 % 256 = 0 ∧ i = .cpre) ∨
       (cmd.toNat / 2 ^ 24 = 0x11 ∧ cmd.toNat / 2 ^ 16 % 256 = 0 ∧ i = .cpac) ∨
       (cmd.toNat / 2 ^ 24 = 0x20 ∧ cmd.toNat / 2 ^ 16 % 256 = 0 ∧ i = .apply) ∨
       (cmd.toNat / 2 ^ 24 = 0x21 ∧
          ∃ ch : ChannelNumber, ch.val = cmd.toNat / 2 ^ 16 % 256 ∧ ch.val < c.N ∧ i = .chon ch) ∨
       (cmd.toNat / 2 ^ 24 = 0x22 ∧
          ∃ ch : ChannelNumber, ch.val = cmd.toNat / 2 ^ 16 % 256 ∧ ch.val < c.N ∧ i = .choff ch))

/-- R64: the illegal words are exactly these, and an illegal word only writes STATUS.CODE. -/
def Obligations.IllegalWordsAreExactlyThese : Prop :=
  ∀ (cmd wdata : Word),
    ((∃ why, decode cmd wdata = .error why) ↔
      cmd.toNat % 2 ^ 16 ≠ 0 ∨
      cmd.toNat / 2 ^ 24 ∉ [0x01, 0x02, 0x10, 0x11, 0x20, 0x21, 0x22] ∨
      (cmd.toNat / 2 ^ 24 ∈ [0x10, 0x11, 0x20] ∧ cmd.toNat / 2 ^ 16 % 256 ≠ 0) ∨
      (cmd.toNat / 2 ^ 24 = 0x01 ∧
        cmd.toNat / 2 ^ 16 % 256 ∉ [0x02, 0x03, 0x04, 0x05, 0x20, 0x21, 0x22, 0x23]) ∨
      (cmd.toNat / 2 ^ 24 = 0x02 ∧
        cmd.toNat / 2 ^ 16 % 256 ∉ [0x00, 0x01, 0x02, 0x03, 0x04, 0x05, 0x06, 0x07, 0x08, 0x09, 0x0A, 0x0B, 0x0C,
          0x20, 0x21, 0x22, 0x23, 0x30, 0x31, 0x32, 0x33]) ∨
      (cmd.toNat / 2 ^ 24 ∈ [0x21, 0x22] ∧ Config.hardware.N ≤ cmd.toNat / 2 ^ 16 % 256)) ∧
    ∀ s : State, (∃ why, decode cmd wdata = .error why) →
      ∃ t, runCommand cmd wdata s = .next t ∧ t.eng.code = 7 ∧ Engine.sameStatusBut [] s.eng t.eng ∧
        Engine.sameBut [.status] s.eng t.eng ∧ s.sameOutside t ∧ s.responded t .illegalCommand 0

/-- R62: the row of the command a word decodes to selects the word, and no other row does, for every configuration. -/
def Obligations.OneTableRowSelectsALegalWord : Prop :=
  ∀ (c : Config) (cmd wdata : Word) (i : Instr), decode cmd wdata c = .ok i →
    i.row.selects cmd = true ∧ ∀ j : Instr, j.row.selects cmd = true → j.row.mnemonic = i.row.mnemonic

/-- R59 to R62 and 95_test_vectors.md section 2: words written out bit by bit decode to their commands. -/
def Obligations.WrittenOutWordsDecode : Prop :=
  decode 0b00000001000000100000000000000000 2000 = .ok (.wr .tgtf 2000) ∧
  decode 0b00000001001000110000000000000000 0x10000 = .ok (.wr (.duty 3) 0x10000) ∧
  decode 0b00000010001100100000000000000000 0 = .ok (.rd (.cmp 2)) ∧
  decode 0b00010000000000000000000000000000 0 = .ok .cpre ∧
  decode 0b00010001000000000000000000000000 0 = .ok .cpac ∧
  decode 0b00100000000000000000000000000000 0 = .ok .apply ∧
  decode 0b00100001000000110000000000000000 0 = .ok (.chon 3) ∧
  decode 0b00100010000000100000000000000000 0 = .ok (.choff 2)

/-- R67: the data word matters to WR only, and only a legal RD returns read data. -/
def Obligations.UnusedPartsOfATransaction : Prop :=
  (∀ (cmd wdata wdata' : Word) (s : State),
    cmd.toNat / 2 ^ 24 ≠ 0x01 → runCommand cmd wdata s = runCommand cmd wdata' s) ∧
  (∀ (cmd wdata : Word) (s t : State), runCommand cmd wdata s = .next t →
    (∀ reg, decode cmd wdata ≠ .ok (.rd reg)) → ∃ c, s.responded t c 0)

/-- R68, R70, R71: a line of a listing stands for the words the encoder writes, DUTYALL for one WR of each channel's duty
in ascending order, and the percent literal for the legal duty nearest to its fraction. -/
def Obligations.ListingsStandForTheEncodersWords : Prop :=
  (∀ (reg : Reg) (v : Word), (AsmLine.wr (.name reg) v).assemble = [encode (.wr reg v)] ∧
    (AsmLine.rd (.name reg)).assemble = [encode (.rd reg)]) ∧
  AsmLine.cpre.assemble = [encode .cpre] ∧ AsmLine.cpac.assemble = [encode .cpac] ∧
  AsmLine.apply.assemble = [encode .apply] ∧
  (∀ ch : ChannelNumber, (AsmLine.chon (BitVec.ofNat 8 ch.val)).assemble = [encode (.chon ch)] ∧
    (AsmLine.choff (BitVec.ofNat 8 ch.val)).assemble = [encode (.choff ch)]) ∧
  (∀ v : Word, (AsmLine.dutyAll v).assemble =
    [encode (.wr (.duty 0) v), encode (.wr (.duty 1) v), encode (.wr (.duty 2) v), encode (.wr (.duty 3) v)]) ∧
  (∀ k ≤ 100, (percent k).toNat ≤ 2 ^ Config.hardware.DF ∧ 100 * (percent k).toNat ≤ k * 2 ^ Config.hardware.DF + 50 ∧
    k * 2 ^ Config.hardware.DF < 100 * (percent k).toNat + 50)

/-! ### The step -/

/-- R56, R63: an accepted transaction whose word decodes runs that command, whole, and is used up. That the host's
transactions stand in a list that the step reads is the model's choice (assumption log 1). -/
def Obligations.StepRunsTheDecodedCommand : Prop :=
  ∀ (s : State) (cmd wdata : Word) (rest : List Input) (i : Instr),
    s.inputs = .command cmd wdata :: rest → s.inReset = false → decode cmd wdata = .ok i →
      step s = exec i { s with inputs := rest }

/-- R102: an accepted transaction whose word is illegal writes STATUS.CODE, answers, and does nothing else. That the
step takes the head of the list of inputs and leaves the rest is the model's choice (assumption log 1). -/
def Obligations.StepOfAnIllegalWordWritesTheCodeOnly : Prop :=
  ∀ (s : State) (cmd wdata : Word) (rest : List Input) (why : Illegal),
    s.inputs = .command cmd wdata :: rest → s.inReset = false → decode cmd wdata = .error why →
      ∃ t, step s = .next t ∧ t.eng.code = 7 ∧ Engine.sameStatusBut [] s.eng t.eng ∧
        Engine.sameBut [.status] s.eng t.eng ∧ State.sameOutside { s with inputs := rest } t ∧
        s.responded t .illegalCommand 0

/-- R104, R132: no state stops the machine, and what a run has shown only grows. -/
def Obligations.EveryStepGoesOn : Prop :=
  ∀ s : State, ∃ t, step s = .next t ∧ s.responses <+: t.responses ∧ s.trace <+: t.trace

/-- R15, R56, R67, R99: every command ends, with one response; STATUS.CODE takes its code except after a legal RD,
which writes no register. -/
def Obligations.EveryCommandAnswersOnce : Prop :=
  ∀ (i : Instr) (s : State), ∃ t c r, exec i s = .next t ∧ s.responded t c r ∧
    ((∃ reg : Reg, reg.present = true ∧ i = .rd reg) → c = .ok ∧ t.eng = s.eng) ∧
    ((∀ reg : Reg, reg.present = true → i ≠ .rd reg) → r = 0 ∧ t.eng.code = c.num)

/-! ### Register access -/

/-- R72: WR of a RW register stores the word (CHEN its low N bits), writes CODE, and changes nothing else. -/
def Obligations.WrStoresInTheRegister : Prop :=
  ∀ (s : State) (reg : Reg) (v : Word), reg.present = true → reg.writable = true →
    ∃ t, exec (.wr reg v) s = .next t ∧
      (reg ≠ .chen → t.eng.read reg = some v) ∧
      (reg = .chen → t.eng.chen.toNat = v.toNat % 2 ^ Config.hardware.N) ∧
      t.eng.code = 0 ∧ Engine.sameStatusBut [] s.eng t.eng ∧ Engine.sameBut [.status, reg] s.eng t.eng ∧
      s.sameOutside t ∧ s.responded t .ok 0

/-- R72, R14: WR of a RO register is illegal, in the decoder and in the command's own test, and writes nothing but
CODE. That `exec` of such a command, which no legal word gives, raises IllegalCommand, and the decoder's name for the
reason, are the model's choice (assumption log 14). -/
def Obligations.WrOfAReadOnlyRegisterIsIllegal : Prop :=
  ∀ (s : State) (reg : Reg) (v : Word), reg.present = true → reg.writable = false →
    decode (commandWord 0x01 reg.number) v = .error .readOnly ∧
    ∃ t, exec (.wr reg v) s = .next t ∧ t.eng.code = 7 ∧ Engine.sameStatusBut [] s.eng t.eng ∧
      Engine.sameBut [.status] s.eng t.eng ∧ s.sameOutside t ∧ s.responded t .illegalCommand 0

/-- R72, R73, R90, R91: a command whose register is not there or read-only, or whose channel is not below N, raises
IllegalCommand by the test that stands first in its pseudocode, and writes nothing but CODE. No legal word gives such a
command, so that `exec` has an answer for it is the model's choice (assumption log 14). -/
def Obligations.IllFormedCommandsAreIllegal : Prop :=
  ∀ (i : Instr) (s : State), i.wellFormed = false →
    ∃ t, exec i s = .next t ∧ t.eng.code = 7 ∧ Engine.sameStatusBut [] s.eng t.eng ∧
      Engine.sameBut [.status] s.eng t.eng ∧ s.sameOutside t ∧ s.responded t .illegalCommand 0

/-- R73, R51: RD answers with the register, every register of R14 by its own field, and changes nothing at all. -/
def Obligations.RdAnswersWithTheRegister : Prop :=
  ∀ (s : State) (reg : Reg), reg.present = true →
    ∃ t v, exec (.rd reg) s = .next t ∧ s.responded t .ok v ∧ t.eng = s.eng ∧ s.sameOutside t ∧
      (reg = .status → v = s.eng.status) ∧ (reg = .param → v = 0x20101004) ∧ (reg = .tgtf → v = s.eng.tgtf) ∧
      (reg = .cntf → v = s.eng.cntf) ∧ (reg = .outf → v = s.eng.outf) ∧ (reg = .chen → v = s.eng.chen) ∧
      (reg = .psc → v = s.eng.psc) ∧ (reg = .arr → v = s.eng.arr) ∧ (reg = .prem → v = s.eng.prem) ∧
      (reg = .arem → v = s.eng.arem) ∧ (reg = .clks → v = s.eng.clks) ∧ (reg = .apsc → v = s.eng.apsc) ∧
      (reg = .aarr → v = s.eng.aarr) ∧
      (∀ (n : ChannelNumber) (i : Channel), i.val = n.val → reg = .duty n → v = s.eng.duty[i]) ∧
      (∀ (n : ChannelNumber) (i : Channel), i.val = n.val → reg = .cmp n → v = s.eng.cmp[i])

/-- R16: PARAM is register 0x01, read-only, and shows N, W, DF and FW, a byte each, for every configuration and in every
state; on this hardware it reads as 0x20101004. That it is a constant and no stored register, so that reset and every
command leave it, is read from the rule (assumption log 16, DEDUCED). -/
def Obligations.ParamShowsTheConfiguration : Prop :=
  Reg.param.number = 0x01 ∧ Reg.param.writable = false ∧
  (∀ (c : Config) (e : Engine c), e.read .param = some (paramWord c) ∧
    (paramWord c).toNat % 2 ^ 8 = c.N ∧ (paramWord c).toNat / 2 ^ 8 % 2 ^ 8 = c.W ∧
    (paramWord c).toNat / 2 ^ 16 % 2 ^ 8 = c.DF ∧ (paramWord c).toNat / 2 ^ 24 = c.FW) ∧
  ∀ e : Engine, e.read .param = some 0x20101004

/-! ### Derivation -/

/-- R74: CPRE on legal operands derives prescaler and remainder by truncating division, records the sampled clock, sets
PSCV, and changes nothing else. -/
def Obligations.CpreDerivesThePrescaler : Prop :=
  ∀ (s : State) (clk tgt : Nat), clk = s.clockAnswer.toNat → tgt = s.eng.tgtf.toNat →
    0 < tgt → tgt ≤ clk → clk / tgt ≤ Config.hardware.regMax + 1 →
      ∃ t, exec .cpre s = .next t ∧ t.eng.psc.toNat = clk / tgt - 1 ∧ t.eng.prem.toNat = clk % tgt ∧
        t.eng.clks = s.clockAnswer ∧ t.eng.pscv = true ∧ t.eng.code = 0 ∧
        Engine.sameStatusBut [4] s.eng t.eng ∧ Engine.sameBut [.status, .psc, .prem, .clks] s.eng t.eng ∧
        s.sameOutsideButQuery t ∧ s.responded t .ok 0

/-- R74, R95, R99, R100: CPRE on other operands keeps PSC and PREM, records the sampled clock, clears PSCV and answers
with the code whose test comes first. -/
def Obligations.CpreErrorsKeepTheResults : Prop :=
  ∀ (s : State) (clk tgt : Nat) (c : Code), clk = s.clockAnswer.toNat → tgt = s.eng.tgtf.toNat →
    (c = .preconditionViolated ∧ (clk = 0 ∨ tgt = 0 ∨ tgt > clk) ∨
      c = .prescalerOverflow ∧ 0 < tgt ∧ tgt ≤ clk ∧ clk / tgt - 1 > Config.hardware.regMax) →
      ∃ t, exec .cpre s = .next t ∧ t.eng.clks = s.clockAnswer ∧ t.eng.pscv = false ∧ t.eng.code = c.num ∧
        Engine.sameStatusBut [4] s.eng t.eng ∧ Engine.sameBut [.status, .clks] s.eng t.eng ∧
        s.sameOutsideButQuery t ∧ s.responded t c 0

/-- R75, R78: CPAC on legal operands derives period, remainder and all compare values, sets CFGV, and changes nothing
else. -/
def Obligations.CpacDerivesPeriodAndCompares : Prop :=
  ∀ (s : State) (c o per : Nat), c = s.eng.cntf.toNat → o = s.eng.outf.toNat → per = c / o - 1 →
    0 < o → o ≤ c → c / o ≤ Config.hardware.regMax + 1 → (∀ i : Channel, s.eng.duty[i].toNat ≤ 2 ^ Config.hardware.DF) →
      ∃ t, exec .cpac s = .next t ∧ t.eng.arr.toNat = per ∧ t.eng.arem.toNat = c % o ∧
        (∀ i : Channel, t.eng.cmp[i].toNat =
          (per * s.eng.duty[i].toNat + 2 ^ (Config.hardware.DF - 1)) / 2 ^ Config.hardware.DF) ∧
        t.eng.cfgv = true ∧ t.eng.code = 0 ∧ Engine.sameStatusBut [5] s.eng t.eng ∧
        (∀ r, r ∉ [Reg.status, .arr, .arem] → (∀ i, r ≠ .cmp i) → t.eng.read r = s.eng.read r) ∧
        s.sameOutside t ∧ s.responded t .ok 0

/-- R75, R96, R97, R100, R103: CPAC on other operands keeps every result, clears CFGV and answers with the code whose
test comes first. -/
def Obligations.CpacErrorsKeepTheResults : Prop :=
  ∀ (s : State) (c o : Nat) (code : Code), c = s.eng.cntf.toNat → o = s.eng.outf.toNat →
    (code = .preconditionViolated ∧ (c = 0 ∨ o = 0 ∨ o > c) ∨
      code = .periodOverflow ∧ 0 < o ∧ o ≤ c ∧ c / o - 1 > Config.hardware.regMax ∨
      code = .invalidDutyCycle ∧ 0 < o ∧ o ≤ c ∧ c / o - 1 ≤ Config.hardware.regMax ∧
        ∃ i : Channel, s.eng.duty[i].toNat > 2 ^ Config.hardware.DF) →
      ∃ t, exec .cpac s = .next t ∧ t.eng.cfgv = false ∧ t.eng.code = code.num ∧
        Engine.sameStatusBut [5] s.eng t.eng ∧ Engine.sameBut [.status] s.eng t.eng ∧
        s.sameOutside t ∧ s.responded t code 0

/-- R76: what CPRE and CPAC answer and derive depends on their inputs alone. -/
def Obligations.DerivationsArePure : Prop :=
  (∀ s s' t t' : State, exec .cpre s = .next t → exec .cpre s' = .next t' →
    s.clockAnswer = s'.clockAnswer → s.eng.tgtf = s'.eng.tgtf →
      t.eng.code = t'.eng.code ∧ t.eng.pscv = t'.eng.pscv ∧
        (t.eng.pscv = true → t.eng.psc = t'.eng.psc ∧ t.eng.prem = t'.eng.prem)) ∧
  (∀ s s' t t' : State, exec .cpac s = .next t → exec .cpac s' = .next t' →
    s.eng.cntf = s'.eng.cntf → s.eng.outf = s'.eng.outf → s.eng.duty = s'.eng.duty →
      t.eng.code = t'.eng.code ∧ t.eng.cfgv = t'.eng.cfgv ∧
        (t.eng.cfgv = true → t.eng.arr = t'.eng.arr ∧ t.eng.arem = t'.eng.arem ∧ t.eng.cmp = t'.eng.cmp))

/-- R81: the remainder registers report the whole error of the division. -/
def Obligations.RemaindersReportTheError : Prop :=
  (∀ s t : State, exec .cpre s = .next t → t.eng.pscv = true →
    t.eng.clks.toNat = (t.eng.psc.toNat + 1) * t.eng.tgtf.toNat + t.eng.prem.toNat ∧
      t.eng.prem.toNat < t.eng.tgtf.toNat) ∧
  (∀ s t : State, exec .cpac s = .next t → t.eng.cfgv = true →
    t.eng.cntf.toNat = (t.eng.arr.toNat + 1) * t.eng.outf.toNat + t.eng.arem.toNat ∧
      t.eng.arem.toNat < t.eng.outf.toNat)

/-- R82, and U4 of 93_implementation_defined.md: for every configuration the compare value lies between 0 and the period
and within one half of the exact product, whichever way ties go; with ties up, as on this hardware, it is monotone in the
period and in the duty. -/
def Obligations.CompareValueIsNearestAndBounded : Prop :=
  (∀ (c : Config) (tie : RoundTie) (per d : Nat), d ≤ c.dutyOne →
    compareWith tie c.DF per d ≤ per ∧
      2 * (compareWith tie c.DF per d * 2 ^ c.DF) ≤ 2 * (per * d) + 2 ^ c.DF ∧
      2 * (per * d) ≤ 2 * (compareWith tie c.DF per d * 2 ^ c.DF) + 2 ^ c.DF) ∧
  (∀ (c : Config) (per per' d d' : Nat), per ≤ per' → d ≤ d' →
    compareWith .up c.DF per d ≤ compareWith .up c.DF per' d') ∧
  ∀ per d : Nat, compareValue .hardware per d = compareWith .up 16 per d

/-- R83: a divisor is met exactly. -/
def Obligations.DividingTargetIsMetExactly : Prop :=
  ∀ (s : State) (clk tgt : Nat), clk = s.clockAnswer.toNat → tgt = s.eng.tgtf.toNat →
    0 < clk → 0 < tgt → clk % tgt = 0 → clk / tgt ≤ Config.hardware.regMax + 1 →
      ∃ t, exec .cpre s = .next t ∧ s.responded t .ok 0 ∧ t.eng.psc.toNat = clk / tgt - 1 ∧
        t.eng.prem = 0 ∧ clk = tgt * (t.eng.psc.toNat + 1)

/-- R84: duty 0 derives compare 0 and duty 1.0 derives compare = period. -/
def Obligations.BoundaryDutiesAreExact : Prop :=
  ∀ (s t : State) (i : Channel), exec .cpac s = .next t → s.responded t .ok 0 →
    (s.eng.duty[i] = 0x00000000 → t.eng.cmp[i] = 0) ∧
    (s.eng.duty[i] = 0x00010000 → t.eng.cmp[i] = t.eng.arr)

/-- R7, R74, R75, R80, R82: for every configuration what CPRE and CPAC derive fits the timer registers of that width, the
remainders report the error, and no compare value is above the period. -/
def Obligations.EveryConfigurationDerivesWithinItsWidth : Prop :=
  ∀ (c : Config) (s t : State c),
    (execCpre s = .next t → t.eng.pscv = true →
      t.eng.psc.toNat ≤ 2 ^ c.W - 1 ∧ t.eng.clks.toNat = s.clockAnswer.toNat ∧
        t.eng.clks.toNat = (t.eng.psc.toNat + 1) * t.eng.tgtf.toNat + t.eng.prem.toNat) ∧
    (execCpac s = .next t → t.eng.cfgv = true →
      t.eng.arr.toNat ≤ 2 ^ c.W - 1 ∧
        t.eng.cntf.toNat = (t.eng.arr.toNat + 1) * t.eng.outf.toNat + t.eng.arem.toNat ∧
        ∀ i : Channel c, t.eng.cmp[i].toNat ≤ t.eng.arr.toNat)

/-! ### The peripheral commands -/

/-- R86: the operations of an APPLY, in their order, on each path. That a register which no run reaches, larger than
REG_MAX, is handed over cut to 16 bits is the model's (assumption log 17, DEDUCED). -/
def Obligations.ApplyOperationOrder : Prop :=
  ∀ (e : Engine) (cmp : Channel → TimerWord) (oe : Channel → Bool),
    (∀ i, cmp i = e.cmp[i].setWidth Config.hardware.W) → (∀ i, oe i = e.chen.getLsbD i.val) →
    ((e.conf = false ∨ e.psc ≠ e.apsc ∨ e.arr ≠ e.aarr) →
      applyOps e =
        [.enableClock, .setPrescaler (e.psc.setWidth Config.hardware.W), .setPeriod (e.arr.setWidth Config.hardware.W),
         .enablePeriodPreload,
         .setChannelCompare 0 (cmp 0), .enableChannelPreload 0, .setChannelCompare 1 (cmp 1), .enableChannelPreload 1,
         .setChannelCompare 2 (cmp 2), .enableChannelPreload 2, .setChannelCompare 3 (cmp 3), .enableChannelPreload 3,
         .setChannelOutputEnabled 0 (oe 0), .setChannelOutputEnabled 1 (oe 1),
         .setChannelOutputEnabled 2 (oe 2), .setChannelOutputEnabled 3 (oe 3)]) ∧
    (e.conf = true → e.psc = e.apsc → e.arr = e.aarr →
      applyOps e =
        [.setChannelCompare 0 (cmp 0), .setChannelCompare 1 (cmp 1), .setChannelCompare 2 (cmp 2),
         .setChannelCompare 3 (cmp 3),
         .setChannelOutputEnabled 0 (oe 0), .setChannelOutputEnabled 1 (oe 1),
         .setChannelOutputEnabled 2 (oe 2), .setChannelOutputEnabled 3 (oe 3)])

/-- R85, R86, R45, R47: APPLY on the full path, where the oracle answers `ok`, issues its sixteen operations, programs the
peripheral, keeps the applied record and sets CONF, and changes no other register. While no tick falls in (assumption
log 5), the counter stays, and the timer's own copy of the period and of each compare value takes the new value where its
preload was off and stays where it was on. Registers larger than REG_MAX, which no run reaches, are cut to 16 bits
(assumption log 17, DEDUCED). -/
def Obligations.ApplyFullPathProgramsTheTimer : Prop :=
  ∀ s : State, s.eng.pscv = true → s.eng.cfgv = true →
    (s.eng.conf = false ∨ s.eng.psc ≠ s.eng.apsc ∨ s.eng.arr ≠ s.eng.aarr) → s.okFor (applyOps s.eng) →
      ∃ t, exec .apply s = .next t ∧ t.trace = s.trace ++ allOk (applyOps s.eng) ∧
        t.periph.programmed =
          { clkEn := true
            psc := s.eng.psc.setWidth Config.hardware.W
            arr := s.eng.arr.setWidth Config.hardware.W
            arrPreload := true
            ccr := Vector.ofFn fun i : Channel => s.eng.cmp[i].setWidth Config.hardware.W
            ccrPreload := Vector.replicate Config.hardware.N true
            oe := Vector.ofFn fun i : Channel => s.eng.chen.getLsbD i.val } ∧
        (s.quietFor 16 → t.periph.cnt = s.periph.cnt ∧
          t.periph.arrActive =
            (if s.periph.arrPreload = true then s.periph.arrActive else s.eng.arr.setWidth Config.hardware.W) ∧
          ∀ i : Channel, t.periph.ccrActive[i] =
            if s.periph.ccrPreload[i] = true then s.periph.ccrActive[i]
            else s.eng.cmp[i].setWidth Config.hardware.W) ∧
        t.eng.apsc = s.eng.psc ∧ t.eng.aarr = s.eng.arr ∧ t.eng.conf = true ∧ t.eng.code = 0 ∧
        Engine.sameStatusBut [6] s.eng t.eng ∧ Engine.sameBut [.status, .apsc, .aarr] s.eng t.eng ∧
        s.sameAround t ∧ s.responded t .ok 0

/-- R86, R89, R47: APPLY on the re-apply path, where the oracle answers `ok`, rewrites the compare values and the output
enables and nothing else of the programmed fields, and no register but CODE. While no tick falls in (assumption log 5),
the counter and the timer's own copy of the period stay, and its copy of each compare value takes the new value only where
the preload is off. A compare value larger than REG_MAX, which no run reaches, is cut to 16 bits (assumption log 17,
DEDUCED). -/
def Obligations.ApplyAgainRewritesComparesAndEnablesOnly : Prop :=
  ∀ s : State, s.eng.pscv = true → s.eng.cfgv = true → s.eng.conf = true → s.eng.psc = s.eng.apsc →
    s.eng.arr = s.eng.aarr → s.okFor (applyOps s.eng) →
      ∃ t, exec .apply s = .next t ∧ t.trace = s.trace ++ allOk (applyOps s.eng) ∧
        t.periph.programmed =
          { s.periph.programmed with
            ccr := Vector.ofFn fun i : Channel => s.eng.cmp[i].setWidth Config.hardware.W
            oe := Vector.ofFn fun i : Channel => s.eng.chen.getLsbD i.val } ∧
        (s.quietFor 8 → t.periph.arrActive = s.periph.arrActive ∧ t.periph.cnt = s.periph.cnt ∧
          ∀ i : Channel, t.periph.ccrActive[i] =
            if s.periph.ccrPreload[i] = true then s.periph.ccrActive[i]
            else s.eng.cmp[i].setWidth Config.hardware.W) ∧
        t.eng.conf = true ∧ t.eng.code = 0 ∧ Engine.sameStatusBut [] s.eng t.eng ∧
        Engine.sameBut [.status] s.eng t.eng ∧ s.sameAround t ∧ s.responded t .ok 0

/-- R101: APPLY without valid results, CHON and CHOFF while not configured do nothing but answer NotReady. -/
def Obligations.NotReadyDoesNothing : Prop :=
  ∀ (i : Instr) (s : State),
    (i = .apply ∧ (s.eng.pscv = false ∨ s.eng.cfgv = false) ∨
      (∃ ch : ChannelNumber, ch.val < Config.hardware.N ∧ (i = .chon ch ∨ i = .choff ch)) ∧ s.eng.conf = false) →
      ∃ t, exec i s = .next t ∧ t.eng.code = 6 ∧ Engine.sameStatusBut [] s.eng t.eng ∧
        Engine.sameBut [.status] s.eng t.eng ∧ s.sameOutside t ∧ s.responded t .notReady 0

/-- R88, R98, R99: an APPLY whose operation number k + 1 faults keeps the effect of the first k operations, issues none
after it, clears CONF, answers HardwareApplyError and keeps every other register. What it says of `P` rests on a
faulting operation changing nothing (R42, assumption log 4). -/
def Obligations.ApplyStopsAtTheFirstFault : Prop :=
  ∀ (s : State) (k : Nat), s.eng.pscv = true → s.eng.cfgv = true → k < (applyOps s.eng).length →
    s.faultsAfter k (applyOps s.eng) →
      ∃ t, exec .apply s = .next t ∧ t.trace = s.trace ++ faultedAt k (applyOps s.eng) ∧
        t.periph.programmed = s.periph.programmedBy ((applyOps s.eng).take k) ∧
        t.eng.conf = false ∧ t.eng.code = 4 ∧ Engine.sameStatusBut [6] s.eng t.eng ∧
        Engine.sameBut [.status] s.eng t.eng ∧ s.sameAround t ∧ s.responded t .hardwareApplyError 0

/-- R87 (c): a fault before the last N operations leaves every output enable as it was. It rests on a faulting
operation changing nothing (R42, assumption log 4). -/
def Obligations.FaultBeforeTheEnablesSwitchesNoOutput : Prop :=
  ∀ (s t : State) (k : Nat), s.eng.pscv = true → s.eng.cfgv = true → k + Config.hardware.N < (applyOps s.eng).length →
    s.faultsAfter k (applyOps s.eng) → exec .apply s = .next t → t.periph.oe = s.periph.oe

/-- R90: CHON while configured, where the oracle answers `ok`, issues one operation, enables the channel's output and
its CHEN bit, and changes no other register and no other programmed field; while no tick falls in
(assumption log 5), nothing else of the peripheral either. -/
def Obligations.ChonEnablesOneChannel : Prop :=
  ∀ (s : State) (n : ChannelNumber) (ch : Channel), ch.val = n.val → s.eng.conf = true →
    s.okFor [.setChannelOutputEnabled ch true] →
      ∃ t, exec (.chon n) s = .next t ∧ t.trace = s.trace ++ [⟨.setChannelOutputEnabled ch true, .ok⟩] ∧
        t.periph.programmed = { s.periph.programmed with oe := s.periph.oe.set ch.val true ch.isLt } ∧
        (s.quietFor 1 → t.periph = { s.periph with oe := s.periph.oe.set ch.val true ch.isLt }) ∧
        (∀ j, t.eng.chen.getLsbD j = if j = ch.val then true else s.eng.chen.getLsbD j) ∧
        t.eng.code = 0 ∧ Engine.sameStatusBut [] s.eng t.eng ∧ Engine.sameBut [.status, .chen] s.eng t.eng ∧
        s.sameAround t ∧ s.responded t .ok 0

/-- R91: CHOFF while configured, where the oracle answers `ok`, issues one operation, disables the channel's output and
clears its CHEN bit, and changes no other register and no other programmed field; while no tick falls in
(assumption log 5), nothing else of the peripheral either. -/
def Obligations.ChoffDisablesOneChannel : Prop :=
  ∀ (s : State) (n : ChannelNumber) (ch : Channel), ch.val = n.val → s.eng.conf = true →
    s.okFor [.setChannelOutputEnabled ch false] →
      ∃ t, exec (.choff n) s = .next t ∧ t.trace = s.trace ++ [⟨.setChannelOutputEnabled ch false, .ok⟩] ∧
        t.periph.programmed = { s.periph.programmed with oe := s.periph.oe.set ch.val false ch.isLt } ∧
        (s.quietFor 1 → t.periph = { s.periph with oe := s.periph.oe.set ch.val false ch.isLt }) ∧
        (∀ j, t.eng.chen.getLsbD j = if j = ch.val then false else s.eng.chen.getLsbD j) ∧
        t.eng.code = 0 ∧ Engine.sameStatusBut [] s.eng t.eng ∧ Engine.sameBut [.status, .chen] s.eng t.eng ∧
        s.sameAround t ∧ s.responded t .ok 0

/-- R90, R91, R98: a CHON or CHOFF whose operation faults leaves CHEN and the programmed fields (while no tick falls in,
assumption log 5, the whole peripheral), clears CONF and answers HardwareApplyError. What it says of `P` rests on
assumption log 4. -/
def Obligations.ChannelCommandFaultClearsConfOnly : Prop :=
  ∀ (i : Instr) (s : State) (n : ChannelNumber) (ch : Channel) (on : Bool), ch.val = n.val →
    (i = .chon n ∧ on = true ∨ i = .choff n ∧ on = false) →
    s.eng.conf = true → s.faultsAfter 0 [.setChannelOutputEnabled ch on] →
      ∃ t, exec i s = .next t ∧ t.trace = s.trace ++ [⟨.setChannelOutputEnabled ch on, .fault⟩] ∧
        t.periph.programmed = s.periph.programmed ∧ (s.quietFor 1 → t.periph = s.periph) ∧
        t.eng.conf = false ∧ t.eng.code = 4 ∧
        Engine.sameStatusBut [6] s.eng t.eng ∧ Engine.sameBut [.status] s.eng t.eng ∧ s.sameAround t ∧
        s.responded t .hardwareApplyError 0

/-- R89 (a): an APPLY that succeeds again with nothing changed leaves every engine register and every programmed field
as they are. -/
def Obligations.RepeatedApplyChangesNothing : Prop :=
  ∀ s t t' u : State, exec .apply s = .next t → s.responded t .ok 0 →
    t'.eng = t.eng → t'.periph.programmed = t.periph.programmed →
    exec .apply t' = .next u → t'.responded u .ok 0 →
      u.eng = t.eng ∧ u.periph.programmed = t.periph.programmed

/-- R42, last sentence: a peripheral that faults only while its clock is off never makes the engine report a fault,
provided the applied record holds, whatever the peripheral was before. -/
def Obligations.ClockGatedPeripheralNeverFaults : Prop :=
  ∀ (i : Instr) (s t : State), s.recordHolds → s.env.faults = .clockGated → exec i s = .next t →
    ∀ r, ¬ s.responded t .hardwareApplyError r

/-! ### What all commands keep -/

/-- R26: which commands change which flag, and to what. -/
def Obligations.FlagsChangeOnlyAsTheTableSays : Prop :=
  ∀ (i : Instr) (s : State), ∃ t c r, exec i s = .next t ∧ s.responded t c r ∧
    t.eng.pscv = (if i = .cpre then decide (c = .ok) else s.eng.pscv) ∧
    t.eng.cfgv = (if i = .cpac then decide (c = .ok) else s.eng.cfgv) ∧
    t.eng.conf =
      (if i = .apply ∧ c = .ok then true else if c = .hardwareApplyError then false else s.eng.conf)

/-- R38, R50: CPRE queries the clock once and no other command does; WR, RD, CPRE and CPAC issue no peripheral
operation and let no tick of a command pass. -/
def Obligations.CommandsReachOnlyTheirOwnSpace : Prop :=
  ∀ (i : Instr) (s t : State), exec i s = .next t →
    t.env.queries = s.env.queries + (if i = .cpre then 1 else 0) ∧
    t.inputs = s.inputs ∧ t.inReset = s.inReset ∧ t.periph.cntEn = s.periph.cntEn ∧
    ((∀ ch, i ≠ .apply ∧ i ≠ .chon ch ∧ i ≠ .choff ch) →
      t.periph = s.periph ∧ t.trace = s.trace ∧ t.env.faults = s.env.faults ∧ t.env.ticks = s.env.ticks)

/-- R92, R34: every transition of the lifecycle, every input of the model included. That the registers are reset when
the reset input is asserted, and that its release changes no register, is the model's choice (assumption log 10). -/
def Obligations.LifecycleFollowsTheTable : Prop :=
  (∀ (i : Instr) (s : State), ∃ t c r, exec i s = .next t ∧ s.responded t c r ∧
    (s.lifecycle = .unconfigured → i = .apply → c = .ok →
      t.lifecycle = if s.periph.cntEn then .running else .configured) ∧
    (s.lifecycle = .unconfigured → ¬ (i = .apply ∧ c = .ok) → t.lifecycle = .unconfigured) ∧
    (s.lifecycle ≠ .unconfigured → c = .hardwareApplyError → t.lifecycle = .unconfigured) ∧
    (s.lifecycle ≠ .unconfigured → c ≠ .hardwareApplyError → t.lifecycle = s.lifecycle)) ∧
  (∀ (cmd wdata : Word) (why : Illegal) (s : State), decode cmd wdata = .error why →
    ∃ t, runCommand cmd wdata s = .next t ∧ t.lifecycle = s.lifecycle) ∧
  (∀ (n : TimerWord) (s : State), ∃ t, accept (.startCounter n) s = .next t ∧
    t.lifecycle = if s.lifecycle = .unconfigured then .unconfigured else .running) ∧
  (∀ s : State, ∃ t, accept .stopCounter s = .next t ∧
    t.lifecycle = if s.lifecycle = .unconfigured then .unconfigured else .configured) ∧
  (∀ s : State, ∃ t, accept .tick s = .next t ∧ t.lifecycle = s.lifecycle) ∧
  (∀ s : State, ∃ t, accept .assertReset s = .next t ∧ t.lifecycle = .unconfigured) ∧
  (∀ s : State, ∃ t, accept .releaseReset s = .next t ∧ t.lifecycle = s.lifecycle)

/-- R108, R117: what the timer counter does is invisible to the engine. Two states that differ only in the counter, its
enable, the active copies and the ticks to come look the same after the same command, where the oracle's answers
are settled. -/
def Obligations.EngineIsBlindToTheCounter : Prop :=
  ∀ (i : Instr) (s s' t t' : State), s.observe = s'.observe → s.clockAnswer = s'.clockAnswer →
    s.env.faults = s'.env.faults → s.env.faults.settledFor 16 →
    exec i s = .next t → exec i s' = .next t' → t.observe = t'.observe

/-! ### Invariants -/

/-- R15, R20, R22, R23, R25, R80: every step keeps the register file legal. -/
def Obligations.RegisterFileStaysLegal : Prop :=
  ∀ s t : State, s.eng.wf → step s = .next t → t.eng.wf

/-- R36: the register file is legal after reset. -/
def Obligations.RegisterFileIsLegalAtReset : Prop := State.reset.eng.wf

/-- R25, R28 to R31: while the engine is configured, the applied record describes the peripheral; every step keeps
this, a faulting APPLY, a reset and every tick included. -/
def Obligations.AppliedRecordKeepsDescribingTheTimer : Prop :=
  ∀ s t : State, s.recordHolds → step s = .next t → t.recordHolds

/-- R36, R25: the invariant of the applied record holds after reset whatever the peripheral is, because CONF is 0 and the
record then means nothing. -/
def Obligations.AppliedRecordHoldsAtReset : Prop := State.reset.recordHolds

/-- R87, R130: no output is ever switched before a compare value of its channel has been loaded; every step keeps
this. -/
def Obligations.NoOutputSwitchedBeforeItsCompare : Prop :=
  ∀ s t : State, s.switchesSafely → step s = .next t → t.switchesSafely

/-- R36: at reset nothing has been switched: no operation has been issued, since the log of operations starts empty
(assumption log 13, DESIGN CHOICE), and the invariant of `NoOutputSwitchedBeforeItsCompare` holds. -/
def Obligations.NothingSwitchedAtReset : Prop := State.reset.trace = [] ∧ State.reset.switchesSafely

/-! ### Reset and the host -/

/-- R36: the registers after reset. -/
def Obligations.ResetRegisterValues : Prop :=
  (∀ r : Reg, r.present = true → r ≠ .param → State.reset.eng.read r = some 0) ∧
  State.reset.eng.read .param = some 0x20101004 ∧
  State.reset.eng.code = 0 ∧ State.reset.eng.pscv = false ∧ State.reset.eng.cfgv = false ∧
  State.reset.eng.conf = false ∧ State.reset.lifecycle = .unconfigured

/-- R119: while the reset input is asserted a command is not accepted, and when it is released the registers have
their reset values; the peripheral, the clock port and what was issued stay. That the reset input is two inputs of the
model, and that a command issued meanwhile is dropped without a response, is the model's choice (assumption log 10). -/
def Obligations.ResetRestoresTheEngineOnly : Prop :=
  ∀ s : State, ∃ t u, accept .assertReset s = .next t ∧
    (∀ cmd wdata, accept (.command cmd wdata) t = .next t) ∧
    accept .releaseReset t = .next u ∧ u.eng = State.reset.eng ∧ u.inReset = false ∧
    u.periph = s.periph ∧ u.trace = s.trace ∧ u.env = s.env ∧ u.responses = s.responses ∧ u.inputs = s.inputs

/-- R33, R92: the host starts and stops the counter at the peripheral, and the engine sees nothing of it. That the
counter takes any value when it starts, and that stopping keeps it, is the model's choice (assumption log 7). -/
def Obligations.HostStartsAndStopsTheCounter : Prop :=
  ∀ (s : State) (n : TimerWord),
    (∃ t, accept (.startCounter n) s = .next t ∧ t.periph = { s.periph with cntEn := true, cnt := n } ∧
      t.eng = s.eng ∧ t.trace = s.trace ∧ t.responses = s.responses) ∧
    (∃ t, accept .stopCounter s = .next t ∧ t.periph = { s.periph with cntEn := false } ∧
      t.eng = s.eng ∧ t.trace = s.trace ∧ t.responses = s.responses)

/-! ### The timer -/

/-- R43 to R49: what each operation changes when it answers `ok`, and that it changes nothing else, for every
configuration. -/
def Obligations.OperationEffects : Prop :=
  ∀ (c : Config) (p : Periph c) (v : TimerWord c) (i : Channel c) (b : Bool),
    p.perform .enableClock = { p with clkEn := true } ∧
    p.perform (.setPrescaler v) = { p with psc := v } ∧
    (p.arrPreload = false → p.perform (.setPeriod v) = { p with arr := v, arrActive := v }) ∧
    (p.arrPreload = true → p.perform (.setPeriod v) = { p with arr := v }) ∧
    p.perform .enablePeriodPreload = { p with arrPreload := true } ∧
    (p.ccrPreload[i] = false → p.perform (.setChannelCompare i v) =
      { p with ccr := p.ccr.set i.val v i.isLt, ccrActive := p.ccrActive.set i.val v i.isLt }) ∧
    (p.ccrPreload[i] = true →
      p.perform (.setChannelCompare i v) = { p with ccr := p.ccr.set i.val v i.isLt }) ∧
    p.perform (.enableChannelPreload i) = { p with ccrPreload := p.ccrPreload.set i.val true i.isLt } ∧
    p.perform (.setChannelOutputEnabled i b) = { p with oe := p.oe.set i.val b i.isLt }

/-- R51: performing an operation twice is performing it once, for every configuration. -/
def Obligations.OperationsAreIdempotent : Prop :=
  ∀ (c : Config) (p : Periph c) (op : PeriphOp c), (p.perform op).perform op = p.perform op

/-- R42: what one operation does to the machine: the answer is the oracle's, a fault changes nothing in `P`, an `ok` has
the operation's effect, and the operation is issued once. The schedule of ticks is the model's (assumption log 5). That a
fault changes nothing in `P`, where U7 says that no claim should rest on it, and that `FaultAt` counts the operations in
the log of the run, is assumption log 4. -/
def Obligations.OneOperationIsIssuedAndAnswered : Prop :=
  ∀ (op : PeriphOp) (s : State), s.quietFor 1 →
    (s.answerOf op = .fault → (s.afterOp op).periph = s.periph) ∧
    (s.answerOf op = .ok → (s.afterOp op).periph = s.periph.perform op) ∧
    (s.afterOp op).trace = s.trace ++ [⟨op, s.answerOf op⟩] ∧ (s.afterOp op).eng = s.eng ∧
    (s.env.faults = .neverFault → s.answerOf op = .ok) ∧
    (s.env.faults = .alwaysFault → s.answerOf op = .fault) ∧
    (s.env.faults = .clockGated → (s.answerOf op = .ok ↔ op = .enableClock ∨ s.periph.clkEn = true)) ∧
    (∀ k, s.env.faults = .faultAt k → (s.answerOf op = .fault ↔ s.trace.length + 1 = k))

/-- R53, R108: any number of ticks may fall between two operations of a command: the operation finds the peripheral as
the ticks listed for it have left it, and the next operation takes the next number. The list is the model's (assumption
log 5). -/
def Obligations.TicksFallBetweenOperations : Prop :=
  ∀ (op : PeriphOp) (s : State) (k : Nat) (rest : List Nat), s.env.ticks = k :: rest →
    (s.afterOp op).periph =
      (if s.answerOf op = .ok then (s.ticks k).periph.perform op else (s.ticks k).periph) ∧
    (s.afterOp op).env.ticks = rest ∧ (s.afterOp op).env.elapsed = s.env.elapsed + k ∧
    (s.afterOp op).trace = s.trace ++ [⟨op, s.answerOf op⟩] ∧ (s.afterOp op).eng = s.eng

/-- R110, R53: one tick of a started counter at or below the active period; a stopped counter does not tick; no tick
changes a programmed field or the enable. -/
def Obligations.TickCountsAndWraps : Prop :=
  ∀ (c : Config) (n : Nat) (p : Periph c),
    (p.cntEn = true → p.cnt = p.arrActive → p.tick n = { p with cnt := 0 }.updateEvent) ∧
    (p.cntEn = true → p.cnt.toNat < p.arrActive.toNat →
      p.tick n = { p with cnt := p.cnt + 1 } ∧ (p.tick n).cnt.toNat = p.cnt.toNat + 1) ∧
    (p.cntEn = false → p.tick n = p) ∧
    (p.tick n).programmed = p.programmed ∧ (p.tick n).cntEn = p.cntEn

/-- R111: the update event latches every preloaded value, and nothing else. -/
def Obligations.UpdateEventLatchesThePreloads : Prop :=
  ∀ (c : Config) (p : Periph c),
    p.updateEvent.arrActive = (if p.arrPreload = true then p.arr else p.arrActive) ∧
    (∀ i : Channel c, p.updateEvent.ccrActive[i] = if p.ccrPreload[i] = true then p.ccr[i] else p.ccrActive[i]) ∧
    p.updateEvent.programmed = p.programmed ∧ p.updateEvent.cnt = p.cnt ∧ p.updateEvent.cntEn = p.cntEn

/-- R112, R113, R114: the output of an enabled channel is asserted below its compare value, and every enabled channel with
a compare value above 0 asserts at counter 0. That a disabled channel's output is `none` is how the model gives it no
value (R113, assumption log 8, DESIGN CHOICE). -/
def Obligations.OutputOfAChannel : Prop :=
  ∀ (c : Config) (p : Periph c) (i : Channel c),
    (p.oe[i] = true → p.output i = some (decide (p.cnt.toNat < p.ccrActive[i].toNat))) ∧
    (p.oe[i] = false → p.output i = none) ∧
    (p.oe[i] = true → p.cnt = 0 → p.ccrActive[i] ≠ 0 → p.output i = some true)

/-- R110, R112, R115: one cycle of a running counter has A + 1 ticks, an enabled channel with active compare C is asserted
on the ticks 0 to C - 1 and on C of them in all, and the tick after the last latches the preloads. -/
def Obligations.OnePwmCycle : Prop :=
  ∀ (s : State) (i : Channel) (A C : Nat), s.periph.cntEn = true → s.periph.cnt = 0 → s.periph.oe[i] = true →
    A = s.periph.arrActive.toNat → C = s.periph.ccrActive[i].toNat → C ≤ A →
      (∀ n ≤ A, (s.ticks n).periph.cnt.toNat = n ∧ (s.ticks n).periph.output i = some (decide (n < C))) ∧
      ((List.range (A + 1)).filter fun n => (s.ticks n).periph.output i = some true).length = C ∧
      (s.ticks (A + 1)).periph = s.periph.updateEvent
end

