-- ==== Sys2Proof/Laws/Decode.lean ====
section
/-! SUPPORT. The fields of a command word that the encoder builds, and register numbers against names. -/

namespace Sys2Proof

@[simp] theorem opcodeField_commandWord (op sel : BitVec 8) : opcodeField (commandWord op sel) = op := by
  apply BitVec.eq_of_getLsbD_eq
  intro j hj
  simp only [opcodeField, commandWord, BitVec.getLsbD_extractLsb', BitVec.getLsbD_append]
  simp [hj, show ¬ 24 + j < 16 by omega, show ¬ 24 + j - 16 < 8 by omega, show 24 + j - 16 - 8 = j by omega]

@[simp] theorem selField_commandWord (op sel : BitVec 8) : selField (commandWord op sel) = sel := by
  apply BitVec.eq_of_getLsbD_eq
  intro j hj
  simp only [selField, commandWord, BitVec.getLsbD_extractLsb', BitVec.getLsbD_append]
  simp [hj, show ¬ 16 + j < 16 by omega]

@[simp] theorem zeroField_commandWord (op sel : BitVec 8) : zeroField (commandWord op sel) = 0#16 := by
  apply BitVec.eq_of_getLsbD_eq
  intro j hj
  simp only [zeroField, commandWord, BitVec.getLsbD_extractLsb', BitVec.getLsbD_append]
  simp [hj]

/-- A word is its three fields (R57). -/
theorem word_of_fields (cmd : Word) (h : zeroField cmd = 0#16) :
    cmd = commandWord (opcodeField cmd) (selField cmd) := by
  apply BitVec.eq_of_getLsbD_eq
  intro j hj
  simp only [commandWord, opcodeField, selField, BitVec.getLsbD_append, BitVec.getLsbD_extractLsb']
  by_cases h16 : j < 16
  · have hz := congrArg (fun z => z.getLsbD j) h
    simp only [zeroField, BitVec.getLsbD_extractLsb'] at hz
    simpa [h16] using hz
  · by_cases h24 : j < 24
    · simp [h16, show j - 16 < 8 by omega, show 16 + (j - 16) = j by omega]
    · simp [h16, show ¬ j - 16 < 8 by omega, show j - 16 - 8 < 8 by omega,
        show 24 + (j - 16 - 8) = j by omega]

/-- The channel number of `base + k`, and of no other number (R14, R60). -/
theorem channelAt_eq {c : Config} {base n : Nat} {ch : ChannelNumber} :
    channelAt base n c = some ch ↔ n = base + ch.val ∧ ch.val < c.N := by
  unfold channelAt
  split
  · rw [Option.some.injEq, Fin.ext_iff]
    simp only
    omega
  · simp only [reduceCtorEq, false_iff]
    omega

theorem channelAt_none {c : Config} {base n : Nat} (h : n < base ∨ base + c.N ≤ n) : channelAt base n c = none := by
  unfold channelAt
  rw [dif_neg]
  omega

/-- The number of a per-channel register, as a natural (R14). -/
theorem Reg.number_duty (i : ChannelNumber) : (Reg.duty i).number.toNat = 0x20 + i.val := by revert i; decide

theorem Reg.number_cmp (i : ChannelNumber) : (Reg.cmp i).number.toNat = 0x30 + i.val := by revert i; decide

/-- The registers that are not one per channel, by number (R14). -/
theorem Reg.ofNumber_channel {c : Config} {n : BitVec 8} (h : 0x0C < n.toNat) :
    Reg.ofNumber n c = ((channelAt 0x20 n.toNat c).map Reg.duty).or ((channelAt 0x30 n.toNat c).map Reg.cmp) := by
  unfold Reg.ofNumber
  split <;> first | omega | rfl

/-- A register's number selects it (R14), if it is there. -/
theorem Reg.ofNumber_number {c : Config} (r : Reg) (h : r.present c = true) : Reg.ofNumber r.number c = some r := by
  cases r with
  | duty i =>
    have hi : i.val < c.N := by simpa [Reg.present] using h
    rw [Reg.ofNumber_channel (by rw [Reg.number_duty]; omega), Reg.number_duty,
      channelAt_eq.mpr ⟨rfl, hi⟩]
    rfl
  | cmp i =>
    have hi : i.val < c.N := by simpa [Reg.present] using h
    have := c.channels_le
    rw [Reg.ofNumber_channel (by rw [Reg.number_cmp]; omega), Reg.number_cmp,
      channelAt_none (.inr (by omega)), channelAt_eq.mpr ⟨rfl, hi⟩]
    rfl
  | _ => rfl

/-- A number selects a register only if it is that register's, and it is there (R14). -/
theorem Reg.of_ofNumber {c : Config} {n : BitVec 8} {r : Reg} (h : Reg.ofNumber n c = some r) :
    r.number = n ∧ r.present c = true := by
  by_cases hn : 0x0C < n.toNat
  · rw [Reg.ofNumber_channel hn, Option.or_eq_some_iff] at h
    simp only [Option.map_eq_some_iff, channelAt_eq] at h
    rcases h with ⟨i, ⟨hi, hp⟩, rfl⟩ | ⟨-, i, ⟨hi, hp⟩, rfl⟩
    · exact ⟨BitVec.eq_of_toNat_eq (by rw [Reg.number_duty, hi]), by simpa [Reg.present] using hp⟩
    · exact ⟨BitVec.eq_of_toNat_eq (by rw [Reg.number_cmp, hi]), by simpa [Reg.present] using hp⟩
  · unfold Reg.ofNumber at h
    split at h
    case h_14 => simp_all; omega
    all_goals
      obtain rfl := Option.some.inj h
      exact ⟨BitVec.eq_of_toNat_eq (by simp_all [Reg.number]), rfl⟩

end Sys2Proof
end

