-- ==== Sys2Proof/Laws/State.lean ====
section
/-! SUPPORT. One lemma per field per update of the state: what each named update leaves and sets. -/

namespace Sys2Proof.Machine

section EngineFields

variable {cfg : Config} (e : Engine cfg) (c : Code) (b : Bool)

@[simp] theorem Engine.setCode_tgtf : (e.setCode c).tgtf = e.tgtf := rfl
@[simp] theorem Engine.setCode_cntf : (e.setCode c).cntf = e.cntf := rfl
@[simp] theorem Engine.setCode_outf : (e.setCode c).outf = e.outf := rfl
@[simp] theorem Engine.setCode_chen : (e.setCode c).chen = e.chen := rfl
@[simp] theorem Engine.setCode_psc : (e.setCode c).psc = e.psc := rfl
@[simp] theorem Engine.setCode_arr : (e.setCode c).arr = e.arr := rfl
@[simp] theorem Engine.setCode_prem : (e.setCode c).prem = e.prem := rfl
@[simp] theorem Engine.setCode_arem : (e.setCode c).arem = e.arem := rfl
@[simp] theorem Engine.setCode_clks : (e.setCode c).clks = e.clks := rfl
@[simp] theorem Engine.setCode_apsc : (e.setCode c).apsc = e.apsc := rfl
@[simp] theorem Engine.setCode_aarr : (e.setCode c).aarr = e.aarr := rfl
@[simp] theorem Engine.setCode_duty : (e.setCode c).duty = e.duty := rfl
@[simp] theorem Engine.setCode_cmp : (e.setCode c).cmp = e.cmp := rfl

@[simp] theorem Engine.setPscv_tgtf : (e.setPscv b).tgtf = e.tgtf := rfl
@[simp] theorem Engine.setPscv_cntf : (e.setPscv b).cntf = e.cntf := rfl
@[simp] theorem Engine.setPscv_outf : (e.setPscv b).outf = e.outf := rfl
@[simp] theorem Engine.setPscv_chen : (e.setPscv b).chen = e.chen := rfl
@[simp] theorem Engine.setPscv_psc : (e.setPscv b).psc = e.psc := rfl
@[simp] theorem Engine.setPscv_arr : (e.setPscv b).arr = e.arr := rfl
@[simp] theorem Engine.setPscv_prem : (e.setPscv b).prem = e.prem := rfl
@[simp] theorem Engine.setPscv_arem : (e.setPscv b).arem = e.arem := rfl
@[simp] theorem Engine.setPscv_clks : (e.setPscv b).clks = e.clks := rfl
@[simp] theorem Engine.setPscv_apsc : (e.setPscv b).apsc = e.apsc := rfl
@[simp] theorem Engine.setPscv_aarr : (e.setPscv b).aarr = e.aarr := rfl
@[simp] theorem Engine.setPscv_duty : (e.setPscv b).duty = e.duty := rfl
@[simp] theorem Engine.setPscv_cmp : (e.setPscv b).cmp = e.cmp := rfl

@[simp] theorem Engine.setCfgv_tgtf : (e.setCfgv b).tgtf = e.tgtf := rfl
@[simp] theorem Engine.setCfgv_cntf : (e.setCfgv b).cntf = e.cntf := rfl
@[simp] theorem Engine.setCfgv_outf : (e.setCfgv b).outf = e.outf := rfl
@[simp] theorem Engine.setCfgv_chen : (e.setCfgv b).chen = e.chen := rfl
@[simp] theorem Engine.setCfgv_psc : (e.setCfgv b).psc = e.psc := rfl
@[simp] theorem Engine.setCfgv_arr : (e.setCfgv b).arr = e.arr := rfl
@[simp] theorem Engine.setCfgv_prem : (e.setCfgv b).prem = e.prem := rfl
@[simp] theorem Engine.setCfgv_arem : (e.setCfgv b).arem = e.arem := rfl
@[simp] theorem Engine.setCfgv_clks : (e.setCfgv b).clks = e.clks := rfl
@[simp] theorem Engine.setCfgv_apsc : (e.setCfgv b).apsc = e.apsc := rfl
@[simp] theorem Engine.setCfgv_aarr : (e.setCfgv b).aarr = e.aarr := rfl
@[simp] theorem Engine.setCfgv_duty : (e.setCfgv b).duty = e.duty := rfl
@[simp] theorem Engine.setCfgv_cmp : (e.setCfgv b).cmp = e.cmp := rfl

@[simp] theorem Engine.setConf_tgtf : (e.setConf b).tgtf = e.tgtf := rfl
@[simp] theorem Engine.setConf_cntf : (e.setConf b).cntf = e.cntf := rfl
@[simp] theorem Engine.setConf_outf : (e.setConf b).outf = e.outf := rfl
@[simp] theorem Engine.setConf_chen : (e.setConf b).chen = e.chen := rfl
@[simp] theorem Engine.setConf_psc : (e.setConf b).psc = e.psc := rfl
@[simp] theorem Engine.setConf_arr : (e.setConf b).arr = e.arr := rfl
@[simp] theorem Engine.setConf_prem : (e.setConf b).prem = e.prem := rfl
@[simp] theorem Engine.setConf_arem : (e.setConf b).arem = e.arem := rfl
@[simp] theorem Engine.setConf_clks : (e.setConf b).clks = e.clks := rfl
@[simp] theorem Engine.setConf_apsc : (e.setConf b).apsc = e.apsc := rfl
@[simp] theorem Engine.setConf_aarr : (e.setConf b).aarr = e.aarr := rfl
@[simp] theorem Engine.setConf_duty : (e.setConf b).duty = e.duty := rfl
@[simp] theorem Engine.setConf_cmp : (e.setConf b).cmp = e.cmp := rfl

variable (i : Channel cfg)

@[simp] theorem Engine.setEnabled_status : (e.setEnabled i b).status = e.status := rfl
@[simp] theorem Engine.setEnabled_tgtf : (e.setEnabled i b).tgtf = e.tgtf := rfl
@[simp] theorem Engine.setEnabled_cntf : (e.setEnabled i b).cntf = e.cntf := rfl
@[simp] theorem Engine.setEnabled_outf : (e.setEnabled i b).outf = e.outf := rfl
@[simp] theorem Engine.setEnabled_psc : (e.setEnabled i b).psc = e.psc := rfl
@[simp] theorem Engine.setEnabled_arr : (e.setEnabled i b).arr = e.arr := rfl
@[simp] theorem Engine.setEnabled_prem : (e.setEnabled i b).prem = e.prem := rfl
@[simp] theorem Engine.setEnabled_arem : (e.setEnabled i b).arem = e.arem := rfl
@[simp] theorem Engine.setEnabled_clks : (e.setEnabled i b).clks = e.clks := rfl
@[simp] theorem Engine.setEnabled_apsc : (e.setEnabled i b).apsc = e.apsc := rfl
@[simp] theorem Engine.setEnabled_aarr : (e.setEnabled i b).aarr = e.aarr := rfl
@[simp] theorem Engine.setEnabled_duty : (e.setEnabled i b).duty = e.duty := rfl
@[simp] theorem Engine.setEnabled_cmp : (e.setEnabled i b).cmp = e.cmp := rfl

@[simp] theorem Engine.applied_tgtf : e.applied.tgtf = e.tgtf := rfl
@[simp] theorem Engine.applied_cntf : e.applied.cntf = e.cntf := rfl
@[simp] theorem Engine.applied_outf : e.applied.outf = e.outf := rfl
@[simp] theorem Engine.applied_chen : e.applied.chen = e.chen := rfl
@[simp] theorem Engine.applied_psc : e.applied.psc = e.psc := rfl
@[simp] theorem Engine.applied_arr : e.applied.arr = e.arr := rfl
@[simp] theorem Engine.applied_prem : e.applied.prem = e.prem := rfl
@[simp] theorem Engine.applied_arem : e.applied.arem = e.arem := rfl
@[simp] theorem Engine.applied_clks : e.applied.clks = e.clks := rfl
@[simp] theorem Engine.applied_apsc : e.applied.apsc = e.psc := rfl
@[simp] theorem Engine.applied_aarr : e.applied.aarr = e.arr := rfl
@[simp] theorem Engine.applied_duty : e.applied.duty = e.duty := rfl
@[simp] theorem Engine.applied_cmp : e.applied.cmp = e.cmp := rfl

end EngineFields

section StateFields

variable {cfg : Config} (s : State cfg) (c : Code) (rdata : Word) (n : TimerWord cfg)

@[simp] theorem State.setCode_eng : (s.setCode c).eng = s.eng.setCode c := rfl
@[simp] theorem State.setCode_periph : (s.setCode c).periph = s.periph := rfl
@[simp] theorem State.setCode_inReset : (s.setCode c).inReset = s.inReset := rfl
@[simp] theorem State.setCode_env : (s.setCode c).env = s.env := rfl
@[simp] theorem State.setCode_inputs : (s.setCode c).inputs = s.inputs := rfl
@[simp] theorem State.setCode_responses : (s.setCode c).responses = s.responses := rfl
@[simp] theorem State.setCode_trace : (s.setCode c).trace = s.trace := rfl

@[simp] theorem State.respond_eng : (s.respond c rdata).eng = s.eng := rfl
@[simp] theorem State.respond_periph : (s.respond c rdata).periph = s.periph := rfl
@[simp] theorem State.respond_inReset : (s.respond c rdata).inReset = s.inReset := rfl
@[simp] theorem State.respond_env : (s.respond c rdata).env = s.env := rfl
@[simp] theorem State.respond_inputs : (s.respond c rdata).inputs = s.inputs := rfl
@[simp] theorem State.respond_responses :
    (s.respond c rdata).responses = s.responses ++ [⟨c, rdata⟩] := rfl
@[simp] theorem State.respond_trace : (s.respond c rdata).trace = s.trace := rfl

@[simp] theorem State.queryClock_eng : s.queryClock.eng = s.eng := rfl
@[simp] theorem State.queryClock_periph : s.queryClock.periph = s.periph := rfl
@[simp] theorem State.queryClock_inReset : s.queryClock.inReset = s.inReset := rfl
@[simp] theorem State.queryClock_inputs : s.queryClock.inputs = s.inputs := rfl
@[simp] theorem State.queryClock_responses : s.queryClock.responses = s.responses := rfl
@[simp] theorem State.queryClock_trace : s.queryClock.trace = s.trace := rfl
@[simp] theorem State.queryClock_queries : s.queryClock.env.queries = s.env.queries + 1 := rfl
@[simp] theorem State.queryClock_clock : s.queryClock.env.clock = s.env.clock.tail := rfl
@[simp] theorem State.queryClock_faults : s.queryClock.env.faults = s.env.faults := rfl
@[simp] theorem State.queryClock_ticks : s.queryClock.env.ticks = s.env.ticks := rfl

@[simp] theorem State.tick_eng : s.tick.eng = s.eng := rfl
@[simp] theorem State.tick_inReset : s.tick.inReset = s.inReset := rfl
@[simp] theorem State.tick_inputs : s.tick.inputs = s.inputs := rfl
@[simp] theorem State.tick_responses : s.tick.responses = s.responses := rfl
@[simp] theorem State.tick_trace : s.tick.trace = s.trace := rfl
@[simp] theorem State.tick_clock : s.tick.env.clock = s.env.clock := rfl
@[simp] theorem State.tick_queries : s.tick.env.queries = s.env.queries := rfl
@[simp] theorem State.tick_faults : s.tick.env.faults = s.env.faults := rfl
@[simp] theorem State.tick_envTicks : s.tick.env.ticks = s.env.ticks := rfl

@[simp] theorem State.startCounter_eng : (s.startCounter n).eng = s.eng := rfl
@[simp] theorem State.startCounter_programmed :
    (s.startCounter n).periph.programmed = s.periph.programmed := rfl
@[simp] theorem State.startCounter_trace : (s.startCounter n).trace = s.trace := rfl
@[simp] theorem State.stopCounter_eng : s.stopCounter.eng = s.eng := rfl
@[simp] theorem State.stopCounter_programmed :
    s.stopCounter.periph.programmed = s.periph.programmed := rfl
@[simp] theorem State.stopCounter_trace : s.stopCounter.trace = s.trace := rfl

end StateFields

end Sys2Proof.Machine
end

