-- ==== Sys2Proof/Laws/Flags.lean ====
section
/-! SUPPORT. What a write of one field of STATUS or one bit of CHEN does to every bit. -/

namespace Sys2Proof.Machine

variable {cfg : Config}

theorem setBit_getLsbD (w : Word) (k j : Nat) (b : Bool) (hk : k < 32) :
    (setBit w k b).getLsbD j = if j = k then b else w.getLsbD j := by
  unfold setBit
  by_cases hj : j < 32
  · cases b <;> by_cases h : j = k
    · subst h; simp [hj]
    · simp [h, hj]; intro _; omega
    · subst h; simp [hj]
    · simp [h, hj]; intro _; omega
  · have : j ≠ k := by omega
    simp [this, BitVec.getLsbD_of_ge _ j (by omega : 32 ≤ j)]

/-- The bits of STATUS after a write of CODE. -/
theorem Engine.setCode_bit (e : Engine cfg) (c : Code) (j : Nat) :
    (e.setCode c).status.getLsbD j = if j < 4 then c.num.getLsbD j else e.status.getLsbD j := by
  simp only [Engine.setCode, BitVec.getLsbD_append, BitVec.getLsbD_extractLsb']
  by_cases h : j < 4
  · simp [h]
  · have : 4 + (j - 4) = j := by omega
    simp only [h, if_false, this]
    by_cases h2 : j < 32
    · simp [show j - 4 < 28 by omega]
    · simp [BitVec.getLsbD_of_ge _ j (by omega : 32 ≤ j)]

@[simp] theorem Engine.setCode_code (e : Engine cfg) (c : Code) : (e.setCode c).code = c.num := by
  apply BitVec.eq_of_getLsbD_eq
  intro j hj
  simp [Engine.code, Engine.setCode_bit, hj]

@[simp] theorem Engine.setCode_pscv (e : Engine cfg) (c : Code) : (e.setCode c).pscv = e.pscv :=
  (Engine.setCode_bit e c 4).trans (if_neg (by decide))

@[simp] theorem Engine.setCode_cfgv (e : Engine cfg) (c : Code) : (e.setCode c).cfgv = e.cfgv :=
  (Engine.setCode_bit e c 5).trans (if_neg (by decide))

@[simp] theorem Engine.setCode_conf (e : Engine cfg) (c : Code) : (e.setCode c).conf = e.conf :=
  (Engine.setCode_bit e c 6).trans (if_neg (by decide))

/-- The bits of STATUS after a write of PSCV, CFGV or CONF. -/
theorem Engine.setPscv_bit (e : Engine cfg) (b : Bool) (j : Nat) :
    (e.setPscv b).status.getLsbD j = if j = 4 then b else e.status.getLsbD j :=
  setBit_getLsbD e.status 4 j b (by omega)

theorem Engine.setCfgv_bit (e : Engine cfg) (b : Bool) (j : Nat) :
    (e.setCfgv b).status.getLsbD j = if j = 5 then b else e.status.getLsbD j :=
  setBit_getLsbD e.status 5 j b (by omega)

theorem Engine.setConf_bit (e : Engine cfg) (b : Bool) (j : Nat) :
    (e.setConf b).status.getLsbD j = if j = 6 then b else e.status.getLsbD j :=
  setBit_getLsbD e.status 6 j b (by omega)

@[simp] theorem Engine.setPscv_pscv (e : Engine cfg) (b : Bool) : (e.setPscv b).pscv = b :=
  (Engine.setPscv_bit e b 4).trans (if_pos rfl)

@[simp] theorem Engine.setPscv_cfgv (e : Engine cfg) (b : Bool) : (e.setPscv b).cfgv = e.cfgv :=
  (Engine.setPscv_bit e b 5).trans (if_neg (by decide))

@[simp] theorem Engine.setPscv_conf (e : Engine cfg) (b : Bool) : (e.setPscv b).conf = e.conf :=
  (Engine.setPscv_bit e b 6).trans (if_neg (by decide))

@[simp] theorem Engine.setCfgv_pscv (e : Engine cfg) (b : Bool) : (e.setCfgv b).pscv = e.pscv :=
  (Engine.setCfgv_bit e b 4).trans (if_neg (by decide))

@[simp] theorem Engine.setCfgv_cfgv (e : Engine cfg) (b : Bool) : (e.setCfgv b).cfgv = b :=
  (Engine.setCfgv_bit e b 5).trans (if_pos rfl)

@[simp] theorem Engine.setCfgv_conf (e : Engine cfg) (b : Bool) : (e.setCfgv b).conf = e.conf :=
  (Engine.setCfgv_bit e b 6).trans (if_neg (by decide))

@[simp] theorem Engine.setConf_pscv (e : Engine cfg) (b : Bool) : (e.setConf b).pscv = e.pscv :=
  (Engine.setConf_bit e b 4).trans (if_neg (by decide))

@[simp] theorem Engine.setConf_cfgv (e : Engine cfg) (b : Bool) : (e.setConf b).cfgv = e.cfgv :=
  (Engine.setConf_bit e b 5).trans (if_neg (by decide))

@[simp] theorem Engine.setConf_conf (e : Engine cfg) (b : Bool) : (e.setConf b).conf = b :=
  (Engine.setConf_bit e b 6).trans (if_pos rfl)

@[simp] theorem Engine.applied_pscv (e : Engine cfg) : e.applied.pscv = e.pscv :=
  Engine.setConf_pscv { e with apsc := e.psc, aarr := e.arr } true

@[simp] theorem Engine.applied_cfgv (e : Engine cfg) : e.applied.cfgv = e.cfgv :=
  Engine.setConf_cfgv { e with apsc := e.psc, aarr := e.arr } true

@[simp] theorem Engine.applied_conf (e : Engine cfg) : e.applied.conf = true :=
  Engine.setConf_conf { e with apsc := e.psc, aarr := e.arr } true

/-- The bits of CHEN after one enable flag is written (R90, R91). -/
theorem Engine.setEnabled_bit (e : Engine cfg) (i : Channel cfg) (b : Bool) (j : Nat) :
    (e.setEnabled i b).chen.getLsbD j = if j = i.val then b else e.chen.getLsbD j :=
  setBit_getLsbD e.chen i.val j b (by have := i.isLt; have := cfg.channels_le; omega)

/-- The bits of CHEN that WR stores (R20). -/
theorem chenMask_bit (w : Word) (j : Nat) :
    (chenMask cfg w).getLsbD j = (decide (j < cfg.N) && w.getLsbD j) := by
  simp only [chenMask, BitVec.getLsbD_setWidth, BitVec.getLsbD_extractLsb', Nat.zero_add]
  by_cases h : j < 32
  · simp [h]
  · simp [BitVec.getLsbD_of_ge _ j (by omega : 32 ≤ j)]

theorem chenMask_toNat (w : Word) : (chenMask cfg w).toNat = w.toNat % 2 ^ cfg.N := by
  have h : w.toNat % 2 ^ cfg.N ≤ w.toNat := Nat.mod_le _ _
  have hw := w.isLt
  simp only [chenMask, BitVec.toNat_setWidth, BitVec.extractLsb'_toNat, Nat.shiftRight_zero]
  exact Nat.mod_eq_of_lt (by omega)

/-- A channel's own number names it (R52). -/
@[simp] theorem channel_val (i : Channel cfg) (h : i.val < 16) :
    cfg.channel ⟨i.val, h⟩ = some i := by
  simp [Config.channel, i.isLt]

/-- A number at or above N names no channel (R52). -/
theorem channel_none {n : ChannelNumber} (h : cfg.N ≤ n.val) : cfg.channel n = none := by
  simp [Config.channel, Nat.not_lt.mpr h]

/-- A number below N names the channel of that index (R52). -/
theorem channel_some {n : ChannelNumber} (h : n.val < cfg.N) : cfg.channel n = some ⟨n.val, h⟩ := by
  simp [Config.channel, h]

/-- A register can be read exactly if it is there (R14, R73). -/
theorem Engine.read_isSome (e : Engine cfg) (reg : Reg) : (e.read reg).isSome = reg.present cfg := by
  cases reg <;> simp [Engine.read, Reg.present, Config.channel] <;> split <;> simp_all

end Sys2Proof.Machine
end

