-- ==== Sys2Proof/Laws/Timer.lean ====
section
/-! SUPPORT. What operations and ticks do to the peripheral: the programmed fields depend on the operations only,
the counter enable on neither. -/

namespace Sys2Proof.Machine

variable {cfg : Config}

@[simp] theorem Periph.updateEvent_programmed (p : Periph cfg) : p.updateEvent.programmed = p.programmed := rfl
@[simp] theorem Periph.updateEvent_cntEn (p : Periph cfg) : p.updateEvent.cntEn = p.cntEn := rfl
@[simp] theorem Periph.updateEvent_cnt (p : Periph cfg) : p.updateEvent.cnt = p.cnt := rfl
@[simp] theorem Periph.updateEvent_oe (p : Periph cfg) : p.updateEvent.oe = p.oe := rfl

/-- A tick changes no programmed field (R53). -/
@[simp] theorem Periph.tick_programmed (n : Nat) (p : Periph cfg) : (p.tick n).programmed = p.programmed := by
  unfold Periph.tick Periph.overrun
  split_ifs <;> rfl

/-- A tick does not start or stop the counter (R53). -/
@[simp] theorem Periph.tick_cntEn (n : Nat) (p : Periph cfg) : (p.tick n).cntEn = p.cntEn := by
  unfold Periph.tick Periph.overrun
  split_ifs <;> rfl

/-- A counter that has not been started does not tick (R110). -/
theorem Periph.tick_stopped (n : Nat) (p : Periph cfg) (h : p.cntEn = false) : p.tick n = p := by
  simp [Periph.tick, h]

/-- Everything an operation does to the programmed fields is decided by the programmed fields. -/
theorem Periph.perform_programmed_congr {p q : Periph cfg} (op : PeriphOp cfg) (h : p.programmed = q.programmed) :
    (p.perform op).programmed = (q.perform op).programmed := by
  simp only [Periph.programmed, Programmed.mk.injEq] at h
  obtain ⟨h1, h2, h3, h4, h5, h6, h7⟩ := h
  cases op <;> simp [Periph.perform, Periph.programmed, *]

@[simp] theorem Periph.perform_cntEn (p : Periph cfg) (op : PeriphOp cfg) : (p.perform op).cntEn = p.cntEn := by
  cases op <;> rfl

@[simp] theorem Periph.perform_cnt (p : Periph cfg) (op : PeriphOp cfg) : (p.perform op).cnt = p.cnt := by
  cases op <;> rfl

/-- The timer's own copy of the period after an operation (R45). -/
theorem Periph.perform_arrActive (p : Periph cfg) (op : PeriphOp cfg) :
    (p.perform op).arrActive =
      match op with
      | .setPeriod v => if p.arrPreload = true then p.arrActive else v
      | _ => p.arrActive := by
  cases op <;> rfl

/-- A channel's preload after an operation (R48). -/
theorem Periph.perform_ccrPreload (p : Periph cfg) (op : PeriphOp cfg) (j : Channel cfg) :
    (p.perform op).ccrPreload[j] =
      match op with
      | .enableChannelPreload i => if i = j then true else p.ccrPreload[j]
      | _ => p.ccrPreload[j] := by
  cases op with
  | enableChannelPreload i =>
    simp only [Fin.getElem_fin, Fin.ext_iff]
    exact Vector.getElem_set i.isLt j.isLt
  | _ => rfl

/-- The timer's own copy of a channel's compare value after an operation (R47). -/
theorem Periph.perform_ccrActive (p : Periph cfg) (op : PeriphOp cfg) (j : Channel cfg) :
    (p.perform op).ccrActive[j] =
      match op with
      | .setChannelCompare i v =>
        if i = j then (if p.ccrPreload[j] = true then p.ccrActive[j] else v) else p.ccrActive[j]
      | _ => p.ccrActive[j] := by
  cases op with
  | setChannelCompare i v =>
    cases hp : p.ccrPreload[i] with
    | true =>
      have e : (p.perform (.setChannelCompare i v)).ccrActive = p.ccrActive := if_pos hp
      simp only [e]
      split_ifs with h h'
      · rfl
      · exact absurd (h ▸ hp) h'
      · rfl
    | false =>
      have e : (p.perform (.setChannelCompare i v)).ccrActive = p.ccrActive.set i.val v i.isLt :=
        if_neg (by simp [hp])
      simp only [e, Fin.getElem_fin]
      by_cases h : i = j
      · subst h
        simp only [Fin.getElem_fin] at hp
        simp [hp]
      · rw [if_neg h]
        exact Vector.getElem_set_ne _ _ fun e => h (Fin.ext e)
  | _ => rfl

/-- A list of operations makes the same programmed fields of the same programmed fields. -/
theorem Periph.programmedBy_congr (ops : List (PeriphOp cfg)) :
    ∀ {p q : Periph cfg}, p.programmed = q.programmed → p.programmedBy ops = q.programmedBy ops := by
  induction ops with
  | nil => exact fun h => h
  | cons op ops ih => exact fun h => ih (Periph.perform_programmed_congr op h)

/-- Operations one list after the other. -/
theorem Periph.programmedBy_cons (p : Periph cfg) (op : PeriphOp cfg) (ops : List (PeriphOp cfg)) :
    p.programmedBy (op :: ops) = (p.perform op).programmedBy ops := rfl

section Ticks

variable (n : Nat) (s : State cfg)

@[simp] theorem State.ticks_zero : s.ticks 0 = s := rfl
@[simp] theorem State.ticks_succ : s.ticks (n + 1) = s.tick.ticks n := rfl

/-- Ticks change no engine register, nothing observed and nothing to come, no programmed field and not the
counter enable (R53). -/
theorem State.ticks_spec (n : Nat) : ∀ s : State cfg,
    (s.ticks n).eng = s.eng ∧ (s.ticks n).periph.programmed = s.periph.programmed ∧
    (s.ticks n).periph.cntEn = s.periph.cntEn ∧ (s.ticks n).inReset = s.inReset ∧
    (s.ticks n).inputs = s.inputs ∧ (s.ticks n).responses = s.responses ∧ (s.ticks n).trace = s.trace ∧
    (s.ticks n).env.clock = s.env.clock ∧ (s.ticks n).env.queries = s.env.queries ∧
    (s.ticks n).env.faults = s.env.faults ∧ (s.ticks n).env.ticks = s.env.ticks := by
  induction n with
  | zero => intro s; simp
  | succ n ih =>
    intro s
    obtain ⟨h1, h2, h3, h4, h5, h6, h7, h8, h9, h10, h11⟩ := ih s.tick
    refine ⟨h1, h2.trans ?_, h3.trans ?_, h4, h5, h6, h7, h8, h9, h10, h11⟩
    · exact Periph.tick_programmed _ _
    · exact Periph.tick_cntEn _ _

/-- Every tick is counted, whether or not the counter is started. -/
theorem State.ticks_elapsed (n : Nat) : ∀ s : State cfg, (s.ticks n).env.elapsed = s.env.elapsed + n := by
  induction n with
  | zero => exact fun _ => rfl
  | succ n ih =>
    intro s
    rw [State.ticks_succ, ih]
    simp only [State.tick]
    omega

/-- Ticks of a counter that has not been started leave the peripheral as it is (R110). -/
theorem State.ticks_stopped (n : Nat) : ∀ s : State cfg, s.periph.cntEn = false → (s.ticks n).periph = s.periph := by
  induction n with
  | zero => exact fun _ _ => rfl
  | succ n ih =>
    intro s h
    have ht : s.tick.periph = s.periph := Periph.tick_stopped _ _ h
    exact (ih s.tick (by rw [ht]; exact h)).trans ht

end Ticks

end Sys2Proof.Machine
end

