-- ==== Sys2Proof/Laws/Ops.lean ====
section
/-! SUPPORT. Once for each shared operation: everything it can do. -/

namespace Sys2Proof.Machine

variable {cfg : Config}

/-- A command that ends OK goes on, with the code and the response (R10). -/
theorem completeOk_eq (s : State cfg) : completeOk s = .next ((s.setCode .ok).respond .ok 0) := rfl

/-- A command that raises goes on, with the code and the response (R99). -/
theorem raise_eq (c : Code) (s : State cfg) : raise c s = .next ((s.setCode c).respond c 0) := rfl

section OneOperation

variable (op : PeriphOp cfg) (s : State cfg)

@[simp] theorem State.ticksBefore_eng : s.ticksBefore.eng = s.eng :=
  (State.ticks_spec _ s).1
@[simp] theorem State.ticksBefore_programmed : s.ticksBefore.periph.programmed = s.periph.programmed :=
  (State.ticks_spec _ s).2.1
@[simp] theorem State.ticksBefore_cntEn : s.ticksBefore.periph.cntEn = s.periph.cntEn :=
  (State.ticks_spec _ s).2.2.1
@[simp] theorem State.ticksBefore_inReset : s.ticksBefore.inReset = s.inReset :=
  (State.ticks_spec _ s).2.2.2.1
@[simp] theorem State.ticksBefore_inputs : s.ticksBefore.inputs = s.inputs :=
  (State.ticks_spec _ s).2.2.2.2.1
@[simp] theorem State.ticksBefore_responses : s.ticksBefore.responses = s.responses :=
  (State.ticks_spec _ s).2.2.2.2.2.1
@[simp] theorem State.ticksBefore_trace : s.ticksBefore.trace = s.trace :=
  (State.ticks_spec _ s).2.2.2.2.2.2.1
@[simp] theorem State.ticksBefore_clock : s.ticksBefore.env.clock = s.env.clock :=
  (State.ticks_spec _ s).2.2.2.2.2.2.2.1
@[simp] theorem State.ticksBefore_queries : s.ticksBefore.env.queries = s.env.queries :=
  (State.ticks_spec _ s).2.2.2.2.2.2.2.2.1
@[simp] theorem State.ticksBefore_faults : s.ticksBefore.env.faults = s.env.faults :=
  (State.ticks_spec _ s).2.2.2.2.2.2.2.2.2.1

@[simp] theorem State.afterOp_eng : (s.afterOp op).eng = s.eng := s.ticksBefore_eng
@[simp] theorem State.afterOp_inReset : (s.afterOp op).inReset = s.inReset := s.ticksBefore_inReset
@[simp] theorem State.afterOp_inputs : (s.afterOp op).inputs = s.inputs := s.ticksBefore_inputs
@[simp] theorem State.afterOp_responses : (s.afterOp op).responses = s.responses := s.ticksBefore_responses
@[simp] theorem State.afterOp_clock : (s.afterOp op).env.clock = s.env.clock := s.ticksBefore_clock
@[simp] theorem State.afterOp_queries : (s.afterOp op).env.queries = s.env.queries := s.ticksBefore_queries

@[simp] theorem State.afterOp_faults : (s.afterOp op).env.faults = s.env.faults.advance :=
  congrArg FaultOracle.advance s.ticksBefore_faults

@[simp] theorem State.afterOp_trace : (s.afterOp op).trace = s.trace ++ [⟨op, s.answerOf op⟩] :=
  congrArg (fun tr => tr ++ [OpRecord.mk op (s.answerOf op)]) s.ticksBefore_trace

@[simp] theorem State.afterOp_cntEn : (s.afterOp op).periph.cntEn = s.periph.cntEn := by
  simp only [State.afterOp]
  split_ifs <;> simp

/-- The programmed fields after one operation: its effect if it answered `ok`, none if it faulted (R42). -/
theorem State.afterOp_programmed :
    (s.afterOp op).periph.programmed =
      if s.answerOf op = .ok then (s.periph.perform op).programmed else s.periph.programmed := by
  simp only [State.afterOp]
  split_ifs
  · exact Periph.perform_programmed_congr op s.ticksBefore_programmed
  · exact s.ticksBefore_programmed

end OneOperation

/-- Everything a list of operations can do: the first `k` answer `ok` and take effect, and the next one, if
`k` is not the length, faults and ends the list; nothing else but the timer counter's own fields and the free
inputs changes (R42, R53, R88). -/
theorem runOps_spec (ops : List (PeriphOp cfg)) : ∀ s : State cfg,
    (runOps ops s).2.eng = s.eng ∧ (runOps ops s).2.periph.cntEn = s.periph.cntEn ∧
    (runOps ops s).2.inReset = s.inReset ∧ (runOps ops s).2.inputs = s.inputs ∧
    (runOps ops s).2.responses = s.responses ∧ (runOps ops s).2.env.clock = s.env.clock ∧
    (runOps ops s).2.env.queries = s.env.queries ∧
    (((runOps ops s).1 = .ok ∧ (runOps ops s).2.trace = s.trace ++ allOk ops ∧
        (runOps ops s).2.periph.programmed = s.periph.programmedBy ops) ∨
      ∃ k < ops.length, (runOps ops s).1 = .fault ∧ (runOps ops s).2.trace = s.trace ++ faultedAt k ops ∧
        (runOps ops s).2.periph.programmed = s.periph.programmedBy (ops.take k)) := by
  induction ops with
  | nil => intro s; simp [runOps, allOk, Periph.programmedBy]
  | cons op ops ih =>
    intro s
    cases ha : s.answerOf op with
    | ok =>
      have hp : (s.afterOp op).periph.programmed = (s.periph.perform op).programmed := by
        rw [State.afterOp_programmed, if_pos ha]
      obtain ⟨h1, h2, h3, h4, h5, h6, h7, h8⟩ := ih (s.afterOp op)
      simp only [runOps, ha, h1, h2, h3, h4, h5, h6, h7, State.afterOp_eng, State.afterOp_cntEn,
        State.afterOp_inReset, State.afterOp_inputs, State.afterOp_responses, State.afterOp_clock,
        State.afterOp_queries, true_and]
      rcases h8 with ⟨h8, h9, h10⟩ | ⟨k, hk, h8, h9, h10⟩
      · refine .inl ⟨h8, ?_, ?_⟩
        · rw [h9]; simp [allOk, ha]
        · rw [h10]; exact Periph.programmedBy_congr ops hp
      · refine .inr ⟨k + 1, by simpa using hk, h8, ?_, ?_⟩
        · rw [h9]; simp [faultedAt, allOk, ha]
        · rw [h10]; exact Periph.programmedBy_congr _ hp
    | fault =>
      have hp : (s.afterOp op).periph.programmed = s.periph.programmed := by
        rw [State.afterOp_programmed, if_neg (by simp [ha])]
      simp only [runOps, ha, State.afterOp_eng, State.afterOp_cntEn,
        State.afterOp_inReset, State.afterOp_inputs, State.afterOp_responses, State.afterOp_clock,
        State.afterOp_queries, true_and]
      refine .inr ⟨0, by simp, ?_, hp⟩
      simp [faultedAt, allOk, ha]

/-- Whether the clock is enabled after one operation (R28, R43). -/
theorem State.afterOp_clkEn (op : PeriphOp cfg) (s : State cfg) (h : s.answerOf op = .ok) :
    (s.afterOp op).periph.clkEn = true ↔ op = .enableClock ∨ s.periph.clkEn = true := by
  have hp : (s.afterOp op).periph.programmed.clkEn = (s.periph.perform op).programmed.clkEn := by
    rw [State.afterOp_programmed, if_pos h]
  change (s.afterOp op).periph.clkEn = (s.periph.perform op).clkEn at hp
  rw [hp]
  cases op <;> simp [Periph.perform]

/-- The clock gate as an operation finds it: ticks do not change it (R53). -/
theorem State.ticksBefore_clkEn (s : State cfg) : s.ticksBefore.periph.clkEn = s.periph.clkEn :=
  congrArg Programmed.clkEn s.ticksBefore_programmed

/-- Where the oracle surely answers `ok` to a list of operations, it does so to the first, and then surely to the rest. -/
theorem State.okFor_cons {op : PeriphOp cfg} {ops : List (PeriphOp cfg)} {s : State cfg} (h : s.okFor (op :: ops)) :
    s.answerOf op = .ok ∧ (s.afterOp op).okFor ops := by
  have ha : s.answerOf op = .ok := by
    simp only [State.answerOf, FaultOracle.answer, State.ticksBefore_clkEn]
    cases hf : s.env.faults <;> simp only [State.okFor, hf] at h ⊢
    case clockGated => exact if_pos (by simpa [or_comm] using h)
    case alwaysFault => cases h
    case faultAt k => exact if_neg (by simp only [List.length_cons] at h; omega)
    case answers next =>
      obtain ⟨rest, rfl⟩ := h
      rfl
  refine ⟨ha, ?_⟩
  cases hf : s.env.faults <;> simp only [State.okFor, hf, State.afterOp_faults, FaultOracle.advance] at h ⊢
  case clockGated => exact .inl ((State.afterOp_clkEn op s ha).mpr (by simpa [or_comm] using h))
  case alwaysFault => cases h
  case faultAt k =>
    simp only [State.afterOp_trace, List.length_append, List.length_cons, List.length_nil] at h ⊢
    omega
  case answers next =>
    obtain ⟨rest, rfl⟩ := h
    simp [List.replicate_succ]

/-- Operations run to their end where the oracle surely answers `ok`. -/
theorem runOps_okFor (ops : List (PeriphOp cfg)) : ∀ s : State cfg, s.okFor ops → (runOps ops s).1 = .ok := by
  induction ops with
  | nil => intro s _; rfl
  | cons op ops ih =>
    intro s h
    obtain ⟨ha, hr⟩ := State.okFor_cons h
    simp only [runOps, ha]
    exact ih _ hr

/-- Where the oracle surely faults on the first operation, it does. -/
theorem State.faultsAfter_zero {op : PeriphOp cfg} {ops : List (PeriphOp cfg)} {s : State cfg}
    (h : s.faultsAfter 0 (op :: ops)) : s.answerOf op = .fault := by
  simp only [State.answerOf, FaultOracle.answer, State.ticksBefore_clkEn]
  cases hf : s.env.faults <;> simp only [State.faultsAfter, hf] at h ⊢
  case clockGated => exact if_neg (by simpa [h.2.1] using h.2.2)
  case faultAt m => exact if_pos (by omega)
  case answers next =>
    obtain ⟨rest, rfl⟩ := h
    rfl

/-- Where the oracle surely faults on a later operation, it answers `ok` to the first, and surely faults on the later one
still. -/
theorem State.faultsAfter_succ {k : Nat} {op : PeriphOp cfg} {ops : List (PeriphOp cfg)} {s : State cfg}
    (h : s.faultsAfter (k + 1) (op :: ops)) : s.answerOf op = .ok ∧ (s.afterOp op).faultsAfter k ops := by
  simp only [State.answerOf, FaultOracle.answer]
  cases hf : s.env.faults <;>
    simp only [State.faultsAfter, hf, State.afterOp_faults, FaultOracle.advance] at h ⊢
  case clockGated => exact absurd h.1 (by omega)
  case alwaysFault => exact absurd h (by omega)
  case faultAt m =>
    simp only [State.afterOp_trace, List.length_append, List.length_cons, List.length_nil]
    exact ⟨if_neg (by omega), by omega⟩
  case answers next =>
    obtain ⟨rest, rfl⟩ := h
    simp [List.replicate_succ]

/-- Operations stop where the oracle surely faults. -/
theorem runOps_faultsAfter (ops : List (PeriphOp cfg)) : ∀ (k : Nat) (s : State cfg), k < ops.length →
    s.faultsAfter k ops →
      (runOps ops s).1 = .fault ∧ (runOps ops s).2.trace = s.trace ++ faultedAt k ops ∧
        (runOps ops s).2.periph.programmed = s.periph.programmedBy (ops.take k) := by
  induction ops with
  | nil => intro k s h; simp at h
  | cons op ops ih =>
    intro k s hk h
    cases k with
    | zero =>
      have ha := State.faultsAfter_zero h
      simp only [runOps, ha]
      refine ⟨trivial, ?_, ?_⟩
      · simp [faultedAt, allOk, ha]
      · rw [State.afterOp_programmed, if_neg (by simp [ha])]; rfl
    | succ k =>
      obtain ⟨ha, hn⟩ := State.faultsAfter_succ h
      obtain ⟨h1, h2, h3⟩ := ih k (s.afterOp op) (by simpa using hk) hn
      simp only [runOps, ha]
      refine ⟨h1, ?_, ?_⟩
      · rw [h2]; simp [faultedAt, allOk, ha]
      · rw [h3]
        refine Periph.programmedBy_congr _ ?_
        rw [State.afterOp_programmed, if_pos ha]

/-- Where surely no tick falls before the next operation, it finds the peripheral as it is, and surely no tick falls
before the rest. -/
theorem State.quietFor_succ {n : Nat} {s : State cfg} (h : s.quietFor (n + 1)) (op : PeriphOp cfg) :
    s.ticksBefore.periph = s.periph ∧ (s.afterOp op).quietFor n := by
  rcases h with h | ⟨rest, h⟩
  · exact ⟨State.ticks_stopped _ _ h, .inl (by rw [State.afterOp_cntEn]; exact h)⟩
  · have ht : s.env.ticks = 0 :: (List.replicate n 0 ++ rest) := by rw [← h]; rfl
    exact ⟨by simp [State.ticksBefore, ht], .inr ⟨rest, by simp [State.afterOp, State.ticksBefore, ht]⟩⟩

/-- One operation between which and the one before no tick falls: the peripheral after it is decided by its answer
(R42). -/
theorem State.afterOp_quiet {n : Nat} {s : State cfg} (h : s.quietFor (n + 1)) (op : PeriphOp cfg) :
    (s.afterOp op).periph = if s.answerOf op = .ok then s.periph.perform op else s.periph := by
  simp only [State.afterOp, (State.quietFor_succ h op).1]

/-- Operations that all answer `ok` without a tick between them make of the peripheral what they make of it one after
the other (R42, R53). -/
theorem runOps_quiet (ops : List (PeriphOp cfg)) : ∀ s : State cfg, s.quietFor ops.length →
    (runOps ops s).1 = .ok → (runOps ops s).2.periph = ops.foldl Periph.perform s.periph := by
  induction ops with
  | nil => exact fun _ _ _ => rfl
  | cons op ops ih =>
    intro s hq ho
    cases ha : s.answerOf op with
    | ok =>
      simp only [runOps, ha] at ho ⊢
      rw [ih _ (State.quietFor_succ hq op).2 ho, State.afterOp_quiet hq op, if_pos ha]
      rfl
    | fault => simp [runOps, ha] at ho

end Sys2Proof.Machine
end

