-- ==== Sys2Proof/Laws/PerInstr.lean ====
section
/-! SUPPORT. Statements about every command, one lemma per constructor. -/

namespace Sys2Proof.Laws

namespace RowPattern

/-- The command word the encoder writes has the bits of the command's row in the table of R62. -/
def Statement (i : Instr) : Prop := (encode i).1 &&& i.row.mask = i.row.pattern

theorem selects_of_fields {cmd : Word} {sel : BitVec 8} (op : BitVec 8) (pat : Word)
    (hpat : commandWord op 0 = pat) (h : cmd = commandWord op sel) : cmd &&& 0xFF00FFFF#32 = pat := by
  subst hpat h
  apply BitVec.eq_of_getLsbD_eq
  intro j hj
  have hm : (0xFF00FFFF#32 : Word) = 0xFF#8 ++ 0#8 ++ 0xFFFF#16 := by decide
  rw [hm]
  simp only [commandWord, BitVec.getLsbD_and, BitVec.getLsbD_append]
  by_cases h16 : j < 16
  · simp [h16]
  · by_cases h24 : j < 24
    · simp [h16, show j - 16 < 8 by omega]
    · have h255 : (0xFF#8).getLsbD (j - 16 - 8) = true := by
        have : j - 16 - 8 < 8 := by omega
        have key : ∀ k : Fin 8, (0xFF#8).getLsbD k.val = true := by decide
        exact key ⟨_, this⟩
      simp [h16, show ¬ j - 16 < 8 by omega, h255]

theorem wr (reg : Reg) (wdata : Word) : Statement (.wr reg wdata) :=
  selects_of_fields (sel := _) 0x01 0x01000000 (by decide) rfl

theorem rd (reg : Reg) : Statement (.rd reg) :=
  selects_of_fields (sel := _) 0x02 0x02000000 (by decide) rfl

theorem cpre : Statement .cpre := (by decide : 0x10000000#32 &&& 0xFFFFFFFF#32 = 0x10000000#32)

theorem cpac : Statement .cpac := (by decide : 0x11000000#32 &&& 0xFFFFFFFF#32 = 0x11000000#32)

theorem apply : Statement .apply := (by decide : 0x20000000#32 &&& 0xFFFFFFFF#32 = 0x20000000#32)

theorem chon (ch : ChannelNumber) : Statement (.chon ch) :=
  selects_of_fields (sel := _) 0x21 0x21000000 (by decide) rfl

theorem choff (ch : ChannelNumber) : Statement (.choff ch) :=
  selects_of_fields (sel := _) 0x22 0x22000000 (by decide) rfl

end RowPattern

end Sys2Proof.Laws
end

