-- ==== Sys2Proof/Tests/Slice0.lean ====
section
/-! SUPPORT. Tests with expected results from the vectors of 95_test_vectors.md, and for every statement of
Certificates/Slice0/Obligations.lean that has hypotheses a state and operands that meet them. -/

namespace Sys2Proof.Tests

open Sys2Proof Sys2Proof.Machine

/-! ### States to test on -/

/-- `P0` of 95_test_vectors.md: every Boolean false, every number zero. -/
def p0 : Periph where
  clkEn := false
  psc := 0
  arr := 0
  arrPreload := false
  arrActive := 0
  ccr := Vector.replicate 4 0
  ccrPreload := Vector.replicate 4 false
  ccrActive := Vector.replicate 4 0
  oe := Vector.replicate 4 false
  cntEn := false
  cnt := 0

/-- `S0` of 95_test_vectors.md with a clock that answers `clk` to the next query and no tick before the next
twenty-four operations. -/
def s0 (clk : Word) : State where
  eng := Engine.reset
  periph := p0
  inReset := false
  env := { clock := [clk], queries := 0, faults := .neverFault, ticks := List.replicate 24 0, elapsed := 0 }
  inputs := []
  responses := []
  trace := []

/-- `s` with other engine registers. -/
def withEng (f : Engine → Engine) (s : State) : State := { s with eng := f s.eng }

/-- `s` with another oracle. -/
def withFaults (o : FaultOracle) (s : State) : State := { s with env := { s.env with faults := o } }

/-- `s` with these ticks before the next operations. -/
def withTicks (l : List Nat) (s : State) : State := { s with env := { s.env with ticks := l } }

/-- `s` with these inputs to come. -/
def withInputs (l : List Input) (s : State) : State := { s with inputs := l }

/-- A state before CPRE: the clock and the target. -/
def preCpre (clk tgt : Word) : State := withEng (fun e => { e with tgtf := tgt }) (s0 clk)

/-- A state before CPAC: the two frequencies and the four duties. -/
def preCpac (cnt out d₀ d₁ d₂ d₃ : Word) : State :=
  withEng (fun e => { e with cntf := cnt, outf := out, duty := #v[d₀, d₁, d₂, d₃] }) (s0 0)

/-- The operand state `SA` of section 6, with a mask. -/
def sa (mask : Word) : State :=
  withEng
    (fun e => { e with
      status := 0x30, tgtf := 2000, cntf := 2000, outf := 1, chen := mask, psc := 41999, arr := 1999
      clks := 84000000, duty := Vector.replicate 4 0x8000, cmp := Vector.replicate 4 1000 })
    (s0 84000000)

/-- The peripheral after program P1. -/
def p1 : Periph where
  clkEn := true
  psc := 41999
  arr := 1999
  arrPreload := true
  arrActive := 1999
  ccr := Vector.replicate 4 1000
  ccrPreload := Vector.replicate 4 true
  ccrActive := Vector.replicate 4 1000
  oe := Vector.replicate 4 true
  cntEn := false
  cnt := 0

/-- The state after program P1, but for what has been observed. -/
def s1 : State :=
  { withEng (fun e => { e with status := 0x70, apsc := 41999, aarr := 1999 }) (sa 0xF) with periph := p1 }

/-- The timer of section 8. -/
def timer8 : Periph :=
  { p1 with
    arr := 3, arrActive := 3, ccr := #v[2, 0, 3, 1], ccrActive := #v[2, 0, 3, 1], cntEn := true }

/-- What a field of the next state is, if there is a next state. -/
def getNext {α : Type} (o : Outcome) (f : State → α) : Option α :=
  match o with
  | .next t => some (f t)
  | .fault _ => none
  | .refused _ => none

/-- The last response. -/
def lastResponse (s : State) : Option Response := s.responses.getLast?

/-! ### Well-formedness -/

/-- WR of a RO register is ill-formed (R62, R72). -/
theorem test_ill_formed_wr : (Instr.wr .psc 5).wellFormed = false := by decide

/-- WR and RD of a register that is not there are ill-formed (R63, R64). -/
theorem test_ill_formed_register :
    (Instr.wr (.duty 4) 5).wellFormed = false ∧ (Instr.rd (.cmp 4)).wellFormed = false := by decide

/-- CHON and CHOFF of a channel that is not below N are ill-formed (R64). -/
theorem test_ill_formed_channel :
    (Instr.chon 4).wellFormed = false ∧ (Instr.choff 15).wellFormed = false := by decide

/-- A RO register may be read (R62). -/
theorem test_well_formed_rd : (Instr.rd .psc).wellFormed = true := by decide

/-! ### Another configuration (R7): six channels, 8-bit timer registers, a duty format of 4 bits, ties to even -/

/-- A configuration that is not this hardware's. -/
def small : Config where
  N := 6
  W := 8
  FW := 32
  DF := 4
  roundTie := .toEven
  channels_pos := by decide
  channels_le := by decide
  width_pos := by decide
  width_le := by decide
  freq_pos := by decide
  freq_le := by decide
  frac_pos := by decide
  frac_le := by decide

/-- Channel 5 is there, channel 6 is not (R52, R64). -/
theorem test_small_channels :
    (Instr.chon 5).wellFormed small = true ∧ (Instr.chon 6).wellFormed small = false ∧
    decode 0x21050000 0 small = .ok (.chon 5) ∧ decode 0x21060000 0 small = .error .noChannel := by decide

/-- 257 exceeds 2^8, 256 does not (R74). -/
theorem test_small_width : derive small 257 1 = .overflow ∧ derive small 256 1 = .value 255 0 := by decide

/-- A tie goes to the even neighbour: 5 · 0.5 is 2 and 3 · 0.5 is 2 (U4). -/
theorem test_small_ties : compareValue small 5 8 = 2 ∧ compareValue small 3 8 = 2 := by decide

/-! ### Decoding: the words of section 2, each bit written out -/

/-- V-ENC-1. -/
theorem test_decode_wr : decode 0b00000001000000100000000000000000 2000 = .ok (.wr .tgtf 2000) := by decide

/-- V-ENC-16. -/
theorem test_decode_rd : decode 0b00000010001100100000000000000000 0 = .ok (.rd (.cmp 2)) := by decide

/-- V-ENC-17. -/
theorem test_decode_cpre : decode 0b00010000000000000000000000000000 0 = .ok .cpre := by decide

/-- V-ENC-18. -/
theorem test_decode_cpac : decode 0b00010001000000000000000000000000 0 = .ok .cpac := by decide

/-- V-ENC-19. -/
theorem test_decode_apply : decode 0b00100000000000000000000000000000 0 = .ok .apply := by decide

/-- V-ENC-21. -/
theorem test_decode_chon : decode 0b00100001000000110000000000000000 0 = .ok (.chon 3) := by decide

/-- V-ENC-22. -/
theorem test_decode_choff : decode 0b00100010000000100000000000000000 0 = .ok (.choff 2) := by decide

/-- The encoder's word of V-ENC-6. -/
theorem test_encode_wr : encode (.wr (.duty 3) 0x10000) = (0x01230000, 0x10000) := by decide

/-- V-ILL-1 to V-ILL-24: every listed illegal word is refused. -/
theorem test_illegal_words :
    [0x00000000#32, 0xFFFFFFFF#32, 0xFF000000#32, 0x03000000#32, 0x12000000#32, 0x23000000#32, 0x10010000#32,
      0x11000001#32, 0x20000100#32, 0x01020001#32, 0x02000001#32, 0x01060000#32, 0x01000000#32, 0x01010000#32,
      0x01300000#32, 0x010B0000#32, 0x01240000#32, 0x020D0000#32, 0x021F0000#32, 0x02340000#32, 0x02FF0000#32,
      0x21040000#32, 0x22FF0000#32, 0x21008000#32].filterMap (fun w => (decode w 5).toOption) = [] := by decide +kernel

/-- V-ENC-23: DUTYALL 50%. -/
theorem test_dutyall :
    (AsmLine.dutyAll (percent 50)).assemble =
      [(0x01200000, 0x8000), (0x01210000, 0x8000), (0x01220000, 0x8000), (0x01230000, 0x8000)] := by decide

/-- The percent literals of section 2. -/
theorem test_percent :
    [0, 1, 10, 25, 33, 50, 75, 99, 100].map percent =
      [0x0, 0x28F, 0x199A, 0x4000, 0x547B, 0x8000, 0xC000, 0xFD71, 0x10000] := by decide

/-! ### One step of each command -/

/-- V-WR-3: CHEN keeps its low four bits. -/
theorem test_wr_chen :
    getNext (exec (.wr .chen 0xFFFFFFFF) (s0 0)) (fun t => (t.eng.chen, lastResponse t)) =
      some (0xF, some ⟨.ok, 0⟩) := by decide

/-- V-WR-14: a WR after an illegal command writes STATUS.CODE. -/
theorem test_wr_code :
    getNext (exec (.wr .outf 7) (withEng (fun e => { e with status := 0x37 }) (s0 0)))
      (fun t => (t.eng.outf, t.eng.status)) = some (7, 0x30) := by decide

/-- V-WR-1. -/
theorem test_rd_param :
    getNext (exec (.rd .param) (s0 0)) lastResponse = some (some ⟨.ok, 0x20101004⟩) := by decide

/-- V-WR-10: a legal RD leaves STATUS. -/
theorem test_rd_status :
    getNext (exec (.rd .status) (withEng (fun e => { e with status := 5 }) (s0 0)))
      (fun t => (t.eng.status, lastResponse t)) = some (5, some ⟨.ok, 5⟩) := by decide

/-- V-CPRE-7: the quotient is truncated. -/
theorem test_cpre_truncates :
    getNext (exec .cpre (preCpre 84000000 1282)) (fun t => (t.eng.psc, t.eng.prem, t.eng.clks, t.eng.status)) =
      some (65521, 796, 84000000, 0x10) := by decide

/-- V-CPRE-18: the range is tested at full width. -/
theorem test_cpre_overflow :
    getNext (exec .cpre (preCpre 0xFFFFFFFF 1)) (fun t => (t.eng.psc, t.eng.clks, t.eng.status)) =
      some (0, 0xFFFFFFFF, 0x01) := by decide

/-- V-CPAC-19: a tie goes up. -/
theorem test_cpac_ties :
    getNext (exec .cpac (preCpac 1002 1 0x8000 0x4000 0xC000 0x2000))
      (fun t => (t.eng.arr, t.eng.arem, t.eng.cmp.toList, t.eng.status)) =
      some (1001, 0, [501, 250, 751, 125], 0x20) := by decide

/-- V-CPAC-21: the period is tested before the duties. -/
theorem test_cpac_priority :
    getNext (exec .cpac (preCpac 70001 1 0x20000 0 0 0)) (fun t => (t.eng.arr, t.eng.status)) = some (0, 0x02) := by
  decide

/-- V-APPLY-6: the full path with mask 0x5. -/
theorem test_apply_full :
    getNext (exec .apply (sa 0x5))
      (fun t => (t.eng.status, t.eng.apsc, t.trace.length, t.periph.oe.toList, t.periph.arrActive)) =
      some (0x70, 41999, 16, [true, false, true, false], 1999) := by decide

/-- V-APPLY-9: the seventh operation faults. -/
theorem test_apply_fault :
    getNext (exec .apply (withFaults (.faultAt 7) (sa 0x5)))
      (fun t => (t.eng.status, t.trace.length, t.periph.ccr.toList, t.periph.ccrPreload.toList)) =
      some (0x34, 7, [1000, 0, 0, 0], [true, false, false, false]) := by decide

/-- V-CH-6, from CHEN = 0xB. -/
theorem test_chon :
    getNext (exec (.chon 2) (withEng (fun e => { e with chen := 0xB }) s1)) (fun t => (t.eng.chen, t.periph.oe.toList)) =
      some (0xF, [true, true, true, true]) := by decide

/-- V-CH-1. -/
theorem test_chon_not_ready :
    getNext (exec (.chon 0) (s0 0)) (fun t => (t.eng.status, t.trace)) = some (0x06, []) := by decide

/-- V-CH-4. -/
theorem test_choff :
    getNext (exec (.choff 2) s1) (fun t => (t.eng.chen, t.periph.oe.toList, t.eng.status)) =
      some (0xB, [true, true, false, true], 0x70) := by decide

/-- V-CH-8. -/
theorem test_choff_fault :
    getNext (exec (.choff 1) (withFaults .alwaysFault s1)) (fun t => (t.eng.chen, t.eng.status, t.lifecycle)) =
      some (0xF, 0x34, .unconfigured) := by decide

/-- The first command of program P1 through the port. -/
theorem test_step :
    getNext (step (withInputs (assembleInputs [.wr (.name .tgtf) 2000]) (s0 0)))
      (fun t => (t.eng.tgtf, t.inputs, lastResponse t)) = some (2000, [], some ⟨.ok, 0⟩) := by decide

/-- A transaction put in place after reset is the next one the engine runs (V-CPRE-13 pattern, R67). -/
theorem test_withFetchWord :
    (State.reset.withFetchWord 32 0x10000000).inputs = [.command 0x10000000 0] := by decide

/-! ### The timer: section 8 -/

/-- V-TMR-1 and V-TMR-2: the outputs of channel 0 over ticks 0 to 4. -/
theorem test_timer_output :
    (List.range 5).map (fun n => (State.ticks n { s0 0 with periph := timer8 }).periph.output 0) =
      [some true, some true, some false, some false, some true] := by decide

/-- V-TMR-4: a preloaded compare value waits for the update event. -/
theorem test_timer_preload :
    [1, 3].map (fun n => (State.ticks n { s0 0 with
      periph := { timer8 with cnt := 1 }.perform (.setChannelCompare 0 1) }).periph.ccrActive[0]) = [2, 1] := by decide

/-! ### Witnesses: each meets the hypotheses of the statement it is named after -/

/-- A field of the next state that can be computed comes from a next state. -/
theorem exists_next {α : Type} {o : Outcome} {f : State → α} {v : α} (h : getNext o f = some v) :
    ∃ t, o = .next t ∧ f t = v := by
  cases o with
  | next t => exact ⟨t, rfl, by simpa [getNext] using h⟩
  | fault r => simp [getNext] at h
  | refused r => simp [getNext] at h

theorem witness_DecodeOfEncodeIsTheCommand : (Instr.wr (.duty 3) 0xFFFFFFFF).wellFormed = true := by decide

theorem witness_LegalWordsAreTheEncodersWords : decode 0x01230000 0x10000 = .ok (.wr (.duty 3) 0x10000) := by decide

/-- One word for each row, at the largest selector it takes. -/
theorem witness_DecodeFollowsTheCaseList :
    decode 0x01230000 7 = .ok (.wr (.duty 3) 7) ∧ decode 0x02330000 0 = .ok (.rd (.cmp 3)) ∧
    decode 0x10000000 0 = .ok .cpre ∧ decode 0x11000000 0 = .ok .cpac ∧ decode 0x20000000 0 = .ok .apply ∧
    decode 0x21030000 0 = .ok (.chon 3) ∧ decode 0x22030000 0 = .ok (.choff 3) := by decide

/-- One illegal word for each clause, next to a legal one. -/
theorem witness_IllegalWordsAreExactlyThese :
    decode 0x10000001 0 = .error .nonzeroLow ∧ decode 0x23000000 0 = .error .reservedOpcode ∧
    decode 0x20010000 0 = .error .nonzeroSel ∧ decode 0x01060000 0 = .error .readOnly ∧
    decode 0x01240000 0 = .error .noRegister ∧ decode 0x020D0000 0 = .error .noRegister ∧
    decode 0x21040000 0 = .error .noChannel ∧ decode 0x22FF0000 0 = .error .noChannel := by decide

theorem witness_OneTableRowSelectsALegalWord : decode 0x22020000 0 = .ok (.choff 2) := by decide

/-- A CPRE for the first clause and the second. -/
theorem witness_UnusedPartsOfATransaction :
    (0x10000000 : Word).toNat / 2 ^ 24 ≠ 0x01 ∧
    (∃ t, runCommand 0x10000000 0xDEADBEEF (s0 5) = .next t ∧ t.responses = [⟨.preconditionViolated, 0⟩]) ∧
    ∀ reg, decode 0x10000000 0xDEADBEEF ≠ .ok (.rd reg) :=
  ⟨by decide, exists_next (by decide), fun reg => by
    have h : decode 0x10000000 0xDEADBEEF = .ok .cpre := by decide
    rw [h]
    simp⟩

/-- The same words in a configuration with more channels, and a number at its end. -/
theorem witness_DecodeOfEncodeIsTheCommand_small : (Instr.rd (.cmp 5)).wellFormed small = true := by decide

theorem witness_ListingsStandForTheEncodersWords : 0 ≤ 100 ∧ 100 ≤ 100 := by decide

theorem witness_StepRunsTheDecodedCommand :
    (withInputs [.command 0x10000000 0, .tick] (s0 5)).inputs = .command 0x10000000 0 :: [.tick] ∧
    (withInputs [.command 0x10000000 0, .tick] (s0 5)).inReset = false ∧ decode 0x10000000 0 = .ok .cpre := by decide

theorem witness_StepOfAnIllegalWordWritesTheCodeOnly :
    (withInputs [.command 0 0, .tick] s1).inputs = .command 0 0 :: [.tick] ∧
    (withInputs [.command 0 0, .tick] s1).inReset = false ∧ decode 0 0 = .error .reservedOpcode := by decide

/-- A legal RD, a command that is not one, and an RD of a register that is not there. -/
theorem witness_EveryCommandAnswersOnce :
    (∃ reg : Reg, reg.present = true ∧ Instr.rd .status = .rd reg) ∧
    (∀ reg : Reg, reg.present = true → Instr.cpre ≠ .rd reg) ∧
    ∀ reg : Reg, reg.present = true → Instr.rd (.duty 4) ≠ .rd reg :=
  ⟨⟨.status, rfl, rfl⟩, fun _ _ => by simp, fun reg h e => by cases e; exact absurd h (by decide)⟩

/-- CHEN, and a register that is not CHEN. -/
theorem witness_WrStoresInTheRegister :
    Reg.chen.present = true ∧ Reg.chen.writable = true ∧ (Reg.duty 3).present = true ∧
    (Reg.duty 3).writable = true ∧ Reg.duty 3 ≠ .chen := by decide

theorem witness_WrOfAReadOnlyRegisterIsIllegal :
    Reg.status.writable = false ∧ Reg.param.present = true ∧ Reg.param.writable = false ∧
    (Reg.cmp 3).present = true ∧ (Reg.cmp 3).writable = false := by decide

/-- Each way to be ill-formed, at its boundary. -/
theorem witness_IllFormedCommandsAreIllegal :
    (Instr.wr (.cmp 3) 5).wellFormed = false ∧ (Instr.wr (.duty 4) 5).wellFormed = false ∧
    (Instr.rd (.cmp 4)).wellFormed = false ∧ (Instr.chon 4).wellFormed = false ∧
    (Instr.choff 15).wellFormed = false := by decide

/-- The last channel's registers. -/
theorem witness_RdAnswersWithTheRegister :
    (Reg.duty 3).present = true ∧ (Reg.cmp 3).present = true ∧ (3 : Channel).val = (3 : ChannelNumber).val := by decide

/-- Both ends of the range: V-CPRE-8 and V-CPRE-10. -/
theorem witness_CpreDerivesThePrescaler :
    ((preCpre 65536 1).clockAnswer.toNat = 65536 ∧ (preCpre 65536 1).eng.tgtf.toNat = 1 ∧
      65536 / 1 ≤ Config.hardware.regMax + 1) ∧
    (preCpre 1 1).clockAnswer.toNat = 1 ∧ (preCpre 1 1).eng.tgtf.toNat = 1 ∧ 1 / 1 ≤ Config.hardware.regMax + 1 := by decide

/-- V-CPRE-12, V-CPRE-13, V-CPRE-11 and V-CPRE-9: each cause, at its boundary. -/
theorem witness_CpreErrorsKeepTheResults :
    (preCpre 0 5).clockAnswer.toNat = 0 ∧ (preCpre 5 0).eng.tgtf.toNat = 0 ∧
    (preCpre 5 6).eng.tgtf.toNat > (preCpre 5 6).clockAnswer.toNat ∧
    (preCpre 65537 1).clockAnswer.toNat / (preCpre 65537 1).eng.tgtf.toNat - 1 > Config.hardware.regMax := by decide

/-- V-CPAC-3 and V-CPAC-10: both ends of the range, with the largest duty. -/
theorem witness_CpacDerivesPeriodAndCompares :
    ((preCpac 65536 1 0x10000 0x10000 0x10000 0x10000).eng.cntf.toNat / 1 ≤ Config.hardware.regMax + 1 ∧
      ∀ i : Channel, (preCpac 65536 1 0x10000 0x10000 0x10000 0x10000).eng.duty[i].toNat ≤ 2 ^ Config.hardware.DF) ∧
    (preCpac 1 1 0x10000 0x8000 0xFFFF 0).eng.outf.toNat ≤ (preCpac 1 1 0x10000 0x8000 0xFFFF 0).eng.cntf.toNat ∧
    ∀ i : Channel, (preCpac 1 1 0x10000 0x8000 0xFFFF 0).eng.duty[i].toNat ≤ 2 ^ Config.hardware.DF := by decide

/-- V-CPAC-17, V-CPAC-18, V-CPAC-16, the smallest overflow, and V-CPAC-6's 0x10001 in channel 2. -/
theorem witness_CpacErrorsKeepTheResults :
    (preCpac 0 1 0 0 0 0).eng.cntf.toNat = 0 ∧ (preCpac 1 0 0 0 0 0).eng.outf.toNat = 0 ∧
    (preCpac 2000 2001 0 0 0 0).eng.outf.toNat > (preCpac 2000 2001 0 0 0 0).eng.cntf.toNat ∧
    (preCpac 65537 1 0 0 0 0).eng.cntf.toNat / (preCpac 65537 1 0 0 0 0).eng.outf.toNat - 1 > Config.hardware.regMax ∧
    (preCpac 65536 1 0 0 0x10001 0).eng.cntf.toNat / (preCpac 65536 1 0 0 0x10001 0).eng.outf.toNat - 1 ≤ Config.hardware.regMax ∧
    ∃ i : Channel, (preCpac 65536 1 0 0 0x10001 0).eng.duty[i].toNat > 2 ^ Config.hardware.DF := by decide

/-- Two states with one clock and one target but different lives, and two with the same inputs of CPAC. -/
theorem witness_DerivationsArePure :
    (∃ t, exec .cpre (preCpre 84000000 1282) = .next t ∧ t.eng.pscv = true) ∧
    (∃ t, exec .cpre (withEng (fun e => { e with tgtf := 1282 }) s1) = .next t ∧ t.eng.pscv = true) ∧
    (preCpre 84000000 1282).clockAnswer = (withEng (fun e => { e with tgtf := 1282 }) s1).clockAnswer ∧
    (∃ t, exec .cpac (preCpac 2000 1 0x8000 0x8000 0x8000 0x8000) = .next t ∧ t.eng.cfgv = true) ∧
    (∃ t, exec .cpac s1 = .next t ∧ t.eng.cfgv = true) ∧
    (preCpac 2000 1 0x8000 0x8000 0x8000 0x8000).eng.duty = s1.eng.duty :=
  ⟨exists_next (by decide), exists_next (by decide), by decide, exists_next (by decide), exists_next (by decide),
    by decide⟩

theorem witness_RemaindersReportTheError :
    (∃ t, exec .cpre (preCpre 84000000 1282) = .next t ∧ t.eng.pscv = true) ∧
    ∃ t, exec .cpac (preCpac 2000 3 0x8000 0x8000 0x8000 0x8000) = .next t ∧ t.eng.cfgv = true :=
  ⟨exists_next (by decide), exists_next (by decide)⟩

/-- The largest duty, and two neighbouring periods and duties. -/
theorem witness_CompareValueIsNearestAndBounded :
    0x10000 ≤ 2 ^ Config.hardware.DF ∧ 1998 ≤ 1999 ∧ 0x7FFF ≤ 0x8000 := by decide

/-- V-CPRE-8. -/
theorem witness_DividingTargetIsMetExactly :
    0 < (preCpre 65536 1).clockAnswer.toNat ∧ 0 < (preCpre 65536 1).eng.tgtf.toNat ∧
    (preCpre 65536 1).clockAnswer.toNat % (preCpre 65536 1).eng.tgtf.toNat = 0 ∧
    (preCpre 65536 1).clockAnswer.toNat / (preCpre 65536 1).eng.tgtf.toNat ≤ Config.hardware.regMax + 1 := by decide

/-- V-CPAC-5: duty 0 in channel 0, duty 1.0 in channel 1. -/
theorem witness_BoundaryDutiesAreExact :
    (∃ t, exec .cpac (preCpac 2000 1 0 0x10000 0 0x10000) = .next t ∧ t.responses = [⟨.ok, 0⟩]) ∧
    (preCpac 2000 1 0 0x10000 0 0x10000).eng.duty[0] = 0x00000000 ∧
    (preCpac 2000 1 0 0x10000 0 0x10000).eng.duty[1] = 0x00010000 := ⟨exists_next (by decide), by decide, by decide⟩

/-- A CPRE and a CPAC that succeed, on this hardware and in another configuration. -/
theorem witness_EveryConfigurationDerivesWithinItsWidth :
    (∃ t, execCpre (preCpre 65536 1) = .next t ∧ t.eng.pscv = true) ∧
    (∃ t, execCpac (preCpac 65536 1 0x10000 0 0 0) = .next t ∧ t.eng.cfgv = true) ∧
    derive small 256 1 = .value 255 0 :=
  ⟨exists_next (by decide), exists_next (by decide), by decide⟩

/-- The three ways onto the full path, each alone, and the re-apply path. -/
theorem witness_ApplyOperationOrder :
    (sa 0xF).eng.conf = false ∧
    (withEng (fun e => { e with psc := 5 }) s1).eng.psc ≠ (withEng (fun e => { e with psc := 5 }) s1).eng.apsc ∧
    (withEng (fun e => { e with arr := 5 }) s1).eng.arr ≠ (withEng (fun e => { e with arr := 5 }) s1).eng.aarr ∧
    s1.eng.conf = true ∧ s1.eng.psc = s1.eng.apsc ∧ s1.eng.arr = s1.eng.aarr := by decide

theorem witness_ApplyFullPathProgramsTheTimer :
    (sa 0xF).eng.pscv = true ∧ (sa 0xF).eng.cfgv = true ∧ (sa 0xF).eng.conf = false ∧
    (sa 0xF).okFor (applyOps (sa 0xF).eng) ∧ (withFaults .clockGated (sa 0xF)).okFor (applyOps (sa 0xF).eng) ∧
    (withFaults (.faultAt 17) (sa 0xF)).okFor (applyOps (sa 0xF).eng) ∧
    (withFaults (.answers (List.replicate 16 .ok)) (sa 0xF)).okFor (applyOps (sa 0xF).eng) ∧ (sa 0xF).quietFor 16 ∧
    { withTicks (List.replicate 16 0) (sa 0xF) with periph := { p0 with cntEn := true } }.quietFor 16 :=
  ⟨by decide, by decide, by decide, trivial, .inr rfl, .inr (by decide), ⟨[], rfl⟩, .inl rfl, .inr ⟨[], rfl⟩⟩

theorem witness_ApplyAgainRewritesComparesAndEnablesOnly :
    s1.eng.pscv = true ∧ s1.eng.cfgv = true ∧ s1.eng.conf = true ∧ s1.eng.psc = s1.eng.apsc ∧
    s1.eng.arr = s1.eng.aarr ∧ s1.okFor (applyOps s1.eng) ∧ (withFaults .clockGated s1).okFor (applyOps s1.eng) ∧
    (withFaults (.faultAt 9) s1).okFor (applyOps s1.eng) ∧ s1.quietFor 8 ∧ p1.ccrPreload[(3 : Channel)] = true ∧
    p0.ccrPreload[(3 : Channel)] = false :=
  ⟨by decide, by decide, by decide, by decide, by decide, trivial, .inl rfl, .inr (by decide), .inl rfl, by decide,
    by decide⟩

/-- V-APPLY-2, V-APPLY-3 and V-CH-1. -/
theorem witness_NotReadyDoesNothing :
    (withEng (fun e => { e with status := 0x20 }) (s0 0)).eng.pscv = false ∧
    (withEng (fun e => { e with status := 0x10 }) (s0 0)).eng.cfgv = false ∧ (s0 0).eng.conf = false ∧
    (3 : ChannelNumber).val < Config.hardware.N := by decide

/-- The first operation and the last. -/
theorem witness_ApplyStopsAtTheFirstFault :
    (sa 0xF).eng.pscv = true ∧ (sa 0xF).eng.cfgv = true ∧ 15 < (applyOps (sa 0xF).eng).length ∧
    (withFaults (.answers [.fault]) (sa 0xF)).faultsAfter 0 (applyOps (sa 0xF).eng) ∧
    (withFaults .alwaysFault (sa 0xF)).faultsAfter 0 (applyOps (sa 0xF).eng) ∧
    (withFaults (.faultAt 16) (sa 0xF)).faultsAfter 15 (applyOps (sa 0xF).eng) ∧
    (withFaults .clockGated { s1 with periph := p0 }).faultsAfter 0 (applyOps s1.eng) ∧
    (withFaults (.answers (List.replicate 15 .ok ++ [.fault])) (sa 0xF)).faultsAfter 15 (applyOps (sa 0xF).eng) :=
  ⟨by decide, by decide, by decide, ⟨[], rfl⟩, rfl, rfl, ⟨rfl, rfl, by decide⟩, ⟨[], rfl⟩⟩

/-- The last operation before the enables: the twelfth. -/
theorem witness_FaultBeforeTheEnablesSwitchesNoOutput :
    (sa 0xF).eng.pscv = true ∧ (sa 0xF).eng.cfgv = true ∧ 11 + Config.hardware.N < (applyOps (sa 0xF).eng).length ∧
    (withFaults (.answers (List.replicate 11 .ok ++ [.fault])) (sa 0xF)).faultsAfter 11 (applyOps (sa 0xF).eng) ∧
    ∃ t, exec .apply (withFaults (.answers (List.replicate 11 .ok ++ [.fault])) (sa 0xF)) = .next t ∧
      t.trace.length = 12 :=
  ⟨by decide, by decide, by decide, ⟨[], rfl⟩, exists_next (by decide)⟩

/-- The last channel, where nothing faults and where only the next operation but one does. -/
theorem witness_ChonEnablesOneChannel :
    s1.eng.conf = true ∧ (3 : Channel).val = (3 : ChannelNumber).val ∧
    s1.okFor [.setChannelOutputEnabled 3 true] ∧
    (withFaults (.faultAt 2) s1).okFor [.setChannelOutputEnabled 3 true] ∧ s1.quietFor 1 :=
  ⟨by decide, rfl, trivial, .inr (by decide), .inl rfl⟩

theorem witness_ChoffDisablesOneChannel :
    s1.eng.conf = true ∧ (0 : Channel).val = (0 : ChannelNumber).val ∧
    (withFaults (.answers [.ok]) s1).okFor [.setChannelOutputEnabled 0 false] ∧
    (withFaults .clockGated s1).okFor [.setChannelOutputEnabled 0 false] ∧
    { withTicks [0] s1 with periph := timer8 }.quietFor 1 :=
  ⟨by decide, rfl, ⟨[], rfl⟩, .inl rfl, .inr ⟨[], rfl⟩⟩

theorem witness_ChannelCommandFaultClearsConfOnly :
    s1.eng.conf = true ∧ (3 : Channel).val = (3 : ChannelNumber).val ∧
    (withFaults (.answers [.fault]) s1).faultsAfter 0 [.setChannelOutputEnabled 3 true] ∧
    (withFaults .alwaysFault s1).faultsAfter 0 [.setChannelOutputEnabled 3 false] ∧ s1.quietFor 1 :=
  ⟨by decide, rfl, ⟨[], rfl⟩, rfl, .inl rfl⟩

/-- Twice the same APPLY, from SA. -/
theorem witness_RepeatedApplyChangesNothing :
    ∃ t, exec .apply (sa 0xF) = .next t ∧ t.responses = [⟨.ok, 0⟩] ∧
      ∃ u, exec .apply t = .next u ∧ u.responses = t.responses ++ [⟨.ok, 0⟩] := by
  obtain ⟨t, h, e⟩ := exists_next (o := exec .apply (sa 0xF)) (f := fun t => (t.responses,
    getNext (exec .apply t) fun u => u.responses)) (v := ([⟨.ok, 0⟩], some [⟨.ok, 0⟩, ⟨.ok, 0⟩])) (by decide +kernel)
  obtain ⟨e1, e2⟩ := Prod.mk.inj e
  obtain ⟨u, h', e3⟩ := exists_next e2
  exact ⟨t, h, e1, u, h', by rw [e3, e1]; rfl⟩

/-- The record of a configured engine, with a clock-gated peripheral. -/
theorem witness_ClockGatedPeripheralNeverFaults :
    (withFaults .clockGated s1).recordHolds ∧ (withFaults .clockGated s1).eng.conf = true ∧
    ∃ t, exec .apply (withFaults .clockGated s1) = .next t ∧ t.trace.length = 8 :=
  ⟨fun _ => by decide, by decide, exists_next (by decide)⟩

theorem witness_CommandsReachOnlyTheirOwnSpace :
    (∃ t, exec .cpre (preCpre 5 5) = .next t ∧ t.env.queries = 1) ∧
    ∀ ch, Instr.cpre ≠ .apply ∧ Instr.cpre ≠ .chon ch ∧ Instr.cpre ≠ .choff ch :=
  ⟨exists_next (by decide), fun _ => by simp⟩

/-- Every lifecycle state the clauses start from. -/
theorem witness_LifecycleFollowsTheTable :
    (sa 0xF).lifecycle = .unconfigured ∧ s1.lifecycle = .configured ∧ (s1.startCounter 0).lifecycle = .running ∧
    (∃ t, exec .apply (sa 0xF) = .next t ∧ t.responses = [⟨.ok, 0⟩]) ∧
    (∃ t, exec .apply (withFaults .alwaysFault s1) = .next t ∧ t.responses = [⟨.hardwareApplyError, 0⟩]) ∧
    decode 0 0 = .error .reservedOpcode :=
  ⟨by decide, by decide, by decide, exists_next (by decide), exists_next (by decide), by decide⟩

/-- Two states that differ in the counter, its enable, the active copies and the ticks to come. -/
theorem witness_EngineIsBlindToTheCounter :
    s1.observe = { s1 with periph := { p1 with cntEn := true, cnt := 7, arrActive := 9 },
                           env := { s1.env with ticks := [3, 1, 0, 0, 0, 0, 0, 0] } }.observe ∧
    s1.env.faults.settledFor 16 ∧ (∃ t, exec .apply s1 = .next t ∧ t.trace.length = 8) ∧
    ∃ t, exec .apply { s1 with periph := { p1 with cntEn := true, cnt := 7, arrActive := 9 },
                               env := { s1.env with ticks := [3, 1, 0, 0, 0, 0, 0, 0] } } = .next t ∧ t.periph.cnt = 1 :=
  ⟨by decide, trivial, exists_next (by decide), exists_next (by decide)⟩

theorem witness_RegisterFileStaysLegal :
    s1.eng.wf ∧ ∃ t, step (withInputs [.command 0x20000000 0] s1) = .next t ∧ t.eng.status = 0x70 :=
  ⟨⟨by decide, by decide, by decide, by decide, by decide, by decide, by decide, by decide⟩, exists_next (by decide)⟩

theorem witness_AppliedRecordKeepsDescribingTheTimer :
    (withInputs [.command 0x20000000 0] s1).recordHolds ∧ s1.eng.conf = true ∧
    ∃ t, step (withInputs [.command 0x20000000 0] s1) = .next t ∧ t.eng.conf = true :=
  ⟨fun _ => by decide, by decide, exists_next (by decide)⟩

/-- `s1` after its four compare writes, with a CHON to come. -/
def loaded : State :=
  { withInputs [.command 0x21020000 0] s1 with trace := (channels .hardware).map fun i => ⟨.setChannelCompare i 1000, .ok⟩ }

theorem witness_NoOutputSwitchedBeforeItsCompare :
    loaded.switchesSafely ∧ loaded.eng.conf = true ∧
    ∃ t, step loaded = .next t ∧ t.trace.getLast? = some ⟨.setChannelOutputEnabled 2 true, .ok⟩ := by
  refine ⟨⟨?_, ?_⟩, by decide, exists_next (by decide)⟩
  · intro before after i b a h
    have hm : (⟨.setChannelOutputEnabled i b, a⟩ : OpRecord) ∈ loaded.trace := by simp [h]
    simp [loaded] at hm
  · intro _ i
    exact ⟨⟨.setChannelCompare i 1000, .ok⟩, by simp [loaded, channels], 1000, rfl⟩

theorem witness_OperationEffects : p0.arrPreload = false ∧ p1.arrPreload = true ∧
    p0.ccrPreload[(3 : Channel)] = false ∧ p1.ccrPreload[(3 : Channel)] = true := by decide

/-- An operation that faults, one that does not, and each named oracle. -/
theorem witness_OneOperationIsIssuedAndAnswered :
    (s0 0).periph.cntEn = false ∧ (s0 0).answerOf .enableClock = .ok ∧
    (withFaults .alwaysFault (s0 0)).answerOf .enableClock = .fault ∧
    (withFaults .clockGated (s0 0)).answerOf .enableClock = .ok ∧
    (withFaults .clockGated (s0 0)).answerOf (.setPeriod 1) = .fault ∧
    (withFaults (.faultAt 1) (s0 0)).answerOf .enableClock = .fault := by decide

/-- Three ticks before an operation of a running counter, and no tick. -/
theorem witness_TicksFallBetweenOperations :
    (withTicks [3, 1] { s1 with periph := timer8 }).env.ticks = 3 :: [1] ∧
    ((withTicks [3, 1] { s1 with periph := timer8 }).afterOp .enableClock).periph.cnt = 3 ∧
    (withTicks [0] s1).env.ticks = 0 :: [] := by decide

/-- At the active period, just below it, and stopped. -/
theorem witness_TickCountsAndWraps :
    timer8.cntEn = true ∧ { timer8 with cnt := 3 }.cnt = timer8.arrActive ∧
    { timer8 with cnt := 2 }.cnt.toNat < timer8.arrActive.toNat ∧ p1.cntEn = false := by decide

theorem witness_OutputOfAChannel :
    timer8.oe[(0 : Channel)] = true ∧ p0.oe[(0 : Channel)] = false ∧ timer8.cnt = 0 ∧
    timer8.ccrActive[(2 : Channel)] ≠ 0 := by decide

/-- Compare 0 and compare equal to the period. -/
theorem witness_OnePwmCycle :
    timer8.cntEn = true ∧ timer8.cnt = 0 ∧ timer8.oe[(1 : Channel)] = true ∧ timer8.oe[(2 : Channel)] = true ∧
    timer8.ccrActive[(1 : Channel)].toNat = 0 ∧ timer8.ccrActive[(2 : Channel)].toNat = timer8.arrActive.toNat := by
  decide

theorem witness_ResetRegisterValues : (Reg.cmp 3).present = true ∧ Reg.cmp 3 ≠ .param := by decide

end Sys2Proof.Tests
end

/-! PROOFS. The derivations of CPRE and CPAC in every configuration (41_derivation.md). -/

namespace Sys2Proof.Machine

variable {c : Config}

/-! ### The arithmetic -/

/-- Division with remainder, the quotient one above the value derived and the value within the timer's register, is
all that `derive` answers (R74, R75, R77, R79, R80). -/
theorem derive_eq_value_iff {num den v r : Nat} :
    derive c num den = .value v r ↔ v ≤ c.regMax ∧ r < den ∧ num = (v + 1) * den + r := by
  unfold derive
  constructor
  · intro h
    split at h
    · cases h
    · next hpre =>
      split at h
      · cases h
      · next hfit =>
        cases h
        have hden : 0 < den := by omega
        have hquot : 0 < num / den := Nat.div_pos (by omega) hden
        refine ⟨by omega, Nat.mod_lt _ hden, ?_⟩
        rw [Nat.sub_add_cancel hquot, Nat.div_add_mod']
  · rintro ⟨hfit, hr, rfl⟩
    have hquot : ((v + 1) * den + r) / den = v + 1 := by
      rw [Nat.add_comm, Nat.add_mul_div_right _ _ (by omega), Nat.div_eq_of_lt hr, Nat.zero_add]
    have hrem : ((v + 1) * den + r) % den = r := by
      rw [Nat.mul_add_mod', Nat.mod_eq_of_lt hr]
    have hle : den ≤ (v + 1) * den := Nat.le_mul_of_pos_left den v.succ_pos
    rw [if_neg (by omega), hquot, hrem, Nat.add_sub_cancel, if_neg (by omega)]

/-- The largest value of a timer register fits a register of the engine (R7, D7). -/
theorem regMax_lt (c : Config) : c.regMax < 2 ^ 32 :=
  calc c.regMax < 2 ^ c.W := Nat.sub_lt (Nat.two_pow_pos _) Nat.one_pos
    _ ≤ 2 ^ 32 := Nat.pow_le_pow_right (by omega) c.width_le

/-- What `derive` answers for a divisor register keeps its value in the engine's registers. -/
theorem derive_value_toNat {num v r : Nat} {den : Word} (h : derive c num den.toNat = .value v r) :
    (BitVec.ofNat 32 v).toNat = v ∧ (BitVec.ofNat 32 r).toNat = r := by
  obtain ⟨hfit, hr, -⟩ := derive_eq_value_iff.mp h
  rw [BitVec.toNat_ofNat, BitVec.toNat_ofNat]
  exact ⟨Nat.mod_eq_of_lt (hfit.trans_lt (regMax_lt c)), Nat.mod_eq_of_lt (hr.trans den.isLt)⟩

/-- Under either tie rule the rounded quotient is at most the one with ties up (R78). -/
theorem roundShift_le_up (tie : RoundTie) (x k : Nat) : roundShift tie x k ≤ (x + 2 ^ (k - 1)) / 2 ^ k := by
  cases tie with
  | up => exact le_rfl
  | toEven =>
    simp only [roundShift]
    split
    · exact Nat.div_le_div_right (Nat.le_add_right _ _)
    · exact le_rfl

/-- The compare value of a legal duty is at most the period, under either tie rule (R82). -/
theorem compareWith_le {tie : RoundTie} {df per d : Nat} (hdf : 1 ≤ df) (hd : d ≤ 2 ^ df) :
    compareWith tie df per d ≤ per := by
  have hprod : per * d ≤ per * 2 ^ df := Nat.mul_le_mul_left per hd
  have hhalf : 2 ^ (df - 1) < 2 ^ df := Nat.pow_lt_pow_right (by omega) (by omega)
  calc compareWith tie df per d
      ≤ (per * d + 2 ^ (df - 1)) / 2 ^ df := roundShift_le_up tie (per * d) df
    _ ≤ per := Nat.le_of_lt_succ ((Nat.div_lt_iff_lt_mul (Nat.two_pow_pos df)).mpr (by rw [Nat.succ_mul]; omega))

/-- CPAC's compare register holds a value that is at most the period (R75, R82). -/
theorem compares_toNat_le {per : Nat} {duty : Vector Word c.N} (i : Channel c)
    (hduty : dutyLegal c duty[i] = true) : (compares c per duty)[i].toNat ≤ per := by
  have hle : compareValue c per duty[i].toNat ≤ per := compareWith_le c.frac_pos (by simpa [dutyLegal] using hduty)
  calc (compares c per duty)[i].toNat
      = compareValue c per duty[i].toNat % 2 ^ 32 := by simp [compares]
    _ ≤ per := (Nat.mod_le _ _).trans hle

/-! ### Everything the two commands can do -/

/-- CPRE records the clock it has sampled, and either takes the value derived, or raises with PSC and PREM kept
(R74). -/
theorem execCpre_cases {s t : State c} (h : execCpre s = .next t) :
    (∃ p r, derive c s.clockAnswer.toNat s.eng.tgtf.toNat = .value p r ∧
      t = (State.setCode .ok { s.queryClock with
        eng := { s.eng with
          clks := s.clockAnswer.setWidth 32
          psc := BitVec.ofNat 32 p
          prem := BitVec.ofNat 32 r }.setPscv true }).respond .ok 0) ∨
    ∃ code,
      (derive c s.clockAnswer.toNat s.eng.tgtf.toNat = .precondition ∧ code = .preconditionViolated ∨
        derive c s.clockAnswer.toNat s.eng.tgtf.toNat = .overflow ∧ code = .prescalerOverflow) ∧
      t = (State.setCode code { s.queryClock with
        eng := { s.eng with clks := s.clockAnswer.setWidth 32 }.setPscv false }).respond code 0 := by
  simp only [execCpre, State.queryClock_eng] at h
  split at h
  · next hd => cases h; exact .inr ⟨_, .inl ⟨hd, rfl⟩, rfl⟩
  · next hd => cases h; exact .inr ⟨_, .inr ⟨hd, rfl⟩, rfl⟩
  · next hd => cases h; exact .inl ⟨_, _, hd, rfl⟩

/-- CPAC either takes the values derived, where every duty is legal, or raises with every result kept (R75). -/
theorem execCpac_cases {s t : State c} (h : execCpac s = .next t) :
    (∃ per r, derive c s.eng.cntf.toNat s.eng.outf.toNat = .value per r ∧
      (∀ i : Channel c, dutyLegal c s.eng.duty[i] = true) ∧
      t = (State.setCode .ok { s with
        eng := { s.eng with
          cmp := compares c per s.eng.duty
          arr := BitVec.ofNat 32 per
          arem := BitVec.ofNat 32 r }.setCfgv true }).respond .ok 0) ∨
    ∃ code,
      (derive c s.eng.cntf.toNat s.eng.outf.toNat = .precondition ∧ code = .preconditionViolated ∨
        derive c s.eng.cntf.toNat s.eng.outf.toNat = .overflow ∧ code = .periodOverflow ∨
        (∃ per r, derive c s.eng.cntf.toNat s.eng.outf.toNat = .value per r) ∧
          (∃ i : Channel c, dutyLegal c s.eng.duty[i] = false) ∧ code = .invalidDutyCycle) ∧
      t = (State.setCode code { s with eng := s.eng.setCfgv false }).respond code 0 := by
  simp only [execCpac] at h
  split at h
  · next hd => cases h; exact .inr ⟨_, .inl ⟨hd, rfl⟩, rfl⟩
  · next hd => cases h; exact .inr ⟨_, .inr (.inl ⟨hd, rfl⟩), rfl⟩
  · next hd =>
    split at h
    · next hduty => cases h; exact .inl ⟨_, _, hd, hduty, rfl⟩
    · next hduty =>
      cases h
      obtain ⟨i, hi⟩ := not_forall.mp hduty
      exact .inr ⟨_, .inr (.inr ⟨⟨_, _, hd⟩, ⟨i, Bool.eq_false_iff.mpr hi⟩, rfl⟩), rfl⟩

/-! ### What a success leaves in the registers -/

/-- After a CPRE that sets PSCV, the prescaler fits the timer's register, CLKS is the sampled clock, and PREM is what
the division leaves (R74, R80). -/
theorem execCpre_derives_within_width {s t : State c} (h : execCpre s = .next t) (hv : t.eng.pscv = true) :
    t.eng.psc.toNat ≤ c.regMax ∧ t.eng.clks.toNat = s.clockAnswer.toNat ∧
      t.eng.clks.toNat = (t.eng.psc.toNat + 1) * t.eng.tgtf.toNat + t.eng.prem.toNat := by
  obtain ⟨p, r, hd, rfl⟩ | ⟨code, -, rfl⟩ := execCpre_cases h
  · obtain ⟨hfit, -, hdiv⟩ := derive_eq_value_iff.mp hd
    obtain ⟨hp, hr⟩ := derive_value_toNat hd
    have hclks : (s.clockAnswer.setWidth 32).toNat = s.clockAnswer.toNat :=
      BitVec.toNat_setWidth_of_le c.freq_le
    simp only [State.respond_eng, State.setCode_eng, Engine.setCode_psc, Engine.setCode_clks, Engine.setCode_tgtf,
      Engine.setCode_prem, Engine.setPscv_psc, Engine.setPscv_clks, Engine.setPscv_tgtf, Engine.setPscv_prem,
      hp, hr, hclks, true_and]
    exact ⟨hfit, hdiv⟩
  · simp at hv

/-- After a CPAC that sets CFGV, the period fits the timer's register, AREM is what the division leaves, and no compare
value is above the period (R75, R80, R82). -/
theorem execCpac_derives_within_width {s t : State c} (h : execCpac s = .next t) (hv : t.eng.cfgv = true) :
    t.eng.arr.toNat ≤ c.regMax ∧
      t.eng.cntf.toNat = (t.eng.arr.toNat + 1) * t.eng.outf.toNat + t.eng.arem.toNat ∧
      ∀ i : Channel c, t.eng.cmp[i].toNat ≤ t.eng.arr.toNat := by
  obtain ⟨per, r, hd, hduty, rfl⟩ | ⟨code, -, rfl⟩ := execCpac_cases h
  · obtain ⟨hfit, -, hdiv⟩ := derive_eq_value_iff.mp hd
    obtain ⟨hper, hr⟩ := derive_value_toNat hd
    simp only [State.respond_eng, State.setCode_eng, Engine.setCode_arr, Engine.setCode_cntf, Engine.setCode_outf,
      Engine.setCode_arem, Engine.setCode_cmp, Engine.setCfgv_arr, Engine.setCfgv_cntf, Engine.setCfgv_outf,
      Engine.setCfgv_arem, Engine.setCfgv_cmp, hper, hr]
    exact ⟨hfit, hdiv, fun i => compares_toNat_le i (hduty i)⟩
  · simp at hv

end Sys2Proof.Machine

namespace Sys2Proof

/-- Settles O27: what each command can do, with `derive` read as division with remainder. -/
theorem everyConfigurationDerivesWithinItsWidth : Obligations.EveryConfigurationDerivesWithinItsWidth :=
  fun _ _ _ => ⟨Machine.execCpre_derives_within_width, Machine.execCpac_derives_within_width⟩

end Sys2Proof

/-! PROOFS. What each command and each step does, said once (10_state.md, 40_register_access.md to 42_apply.md). -/

namespace Sys2Proof

/-- The command switches the output of a channel on or off: CHON or CHOFF of a number that names it (R90, R91). -/
def Instr.Switches {c : Config} (i : Instr) (ch : Channel c) (on : Bool) : Prop :=
  ∃ n, c.channel n = some ch ∧ (i = .chon n ∧ on = true ∨ i = .choff n ∧ on = false)

end Sys2Proof

namespace Sys2Proof.Machine

variable {c : Config}

/-! ### Small facts about the definitions that the cases use -/

/-- The host's store reaches the RW registers only, and CHEN through its mask (R14, R20, R72). -/
theorem Engine.hostWrite_eq (e : Engine c) (wdata : Word) (reg : Reg) : ∃ tgtf cntf outf duty,
    e.hostWrite wdata reg = { e with
      tgtf := tgtf, cntf := cntf, outf := outf, duty := duty
      chen := if reg = .chen then chenMask c wdata else e.chen } := by
  cases reg with
  | duty i =>
    simp only [Engine.hostWrite]
    split
    · exact ⟨_, _, _, _, rfl⟩
    · exact ⟨_, _, _, _, rfl⟩
  | _ => exact ⟨_, _, _, _, rfl⟩

@[simp] theorem Engine.reset_code : (Engine.reset c).code = 0 := by simp [Engine.reset, Engine.code]
@[simp] theorem Engine.reset_pscv : (Engine.reset c).pscv = false := by simp [Engine.reset, Engine.pscv]
@[simp] theorem Engine.reset_cfgv : (Engine.reset c).cfgv = false := by simp [Engine.reset, Engine.cfgv]
@[simp] theorem Engine.reset_conf : (Engine.reset c).conf = false := by simp [Engine.reset, Engine.conf]

/-- The operations of a command leave the engine's registers as they are (R86). -/
@[simp] theorem runOps_eng (ops : List (PeriphOp c)) (s : State c) : (runOps ops s).2.eng = s.eng :=
  (runOps_spec ops s).1

/-- The operations of a command return no response (R56). -/
@[simp] theorem runOps_responses (ops : List (PeriphOp c)) (s : State c) :
    (runOps ops s).2.responses = s.responses :=
  have ⟨_, _, _, _, hresponses, _⟩ := runOps_spec ops s
  hresponses

/-- Operations that all answer `ok` have their effect on the programmed fields, one after the other (R42). -/
theorem runOps_programmed_of_ok {ops : List (PeriphOp c)} {s : State c} (h : (runOps ops s).1 = .ok) :
    (runOps ops s).2.periph.programmed = s.periph.programmedBy ops := by
  obtain ⟨-, -, -, -, -, -, -, ⟨-, -, hp⟩ | ⟨k, -, hf, -⟩⟩ := runOps_spec ops s
  · exact hp
  · rw [hf] at h; cases h

/-! ### Everything a command can do -/

/-- What a command has done before it writes STATUS.CODE and answers with the code (R72 to R75, R86, R90, R91). -/
inductive Effect (s : State c) : Instr → Code → State c → Prop
  /-- Nothing, for a term that no legal word gives (log 14). -/
  | illFormed {i : Instr} (hi : i.wellFormed c = false) : Effect s i .illegalCommand s
  /-- WR (R72). -/
  | stored {reg : Reg} {wdata : Word} (hi : (Instr.wr reg wdata).wellFormed c = true) :
    Effect s (.wr reg wdata) .ok { s with eng := s.eng.hostWrite wdata reg }
  /-- CPRE that has derived the prescaler (R74). -/
  | prescaler {p r : Nat} (hd : derive c s.clockAnswer.toNat s.eng.tgtf.toNat = .value p r) :
    Effect s .cpre .ok { s.queryClock with
      eng := { s.eng with
        clks := s.clockAnswer.setWidth 32
        psc := BitVec.ofNat 32 p
        prem := BitVec.ofNat 32 r }.setPscv true }
  /-- CPRE that raises (R74). -/
  | noPrescaler {code : Code}
      (hd : derive c s.clockAnswer.toNat s.eng.tgtf.toNat = .precondition ∧ code = .preconditionViolated ∨
        derive c s.clockAnswer.toNat s.eng.tgtf.toNat = .overflow ∧ code = .prescalerOverflow) :
    Effect s .cpre code { s.queryClock with
      eng := { s.eng with clks := s.clockAnswer.setWidth 32 }.setPscv false }
  /-- CPAC that has derived period and compare values (R75). -/
  | period {per r : Nat} (hd : derive c s.eng.cntf.toNat s.eng.outf.toNat = .value per r)
      (hduty : ∀ i : Channel c, dutyLegal c s.eng.duty[i] = true) :
    Effect s .cpac .ok { s with
      eng := { s.eng with
        cmp := compares c per s.eng.duty
        arr := BitVec.ofNat 32 per
        arem := BitVec.ofNat 32 r }.setCfgv true }
  /-- CPAC that raises (R75). -/
  | noPeriod {code : Code}
      (hd : derive c s.eng.cntf.toNat s.eng.outf.toNat = .precondition ∧ code = .preconditionViolated ∨
        derive c s.eng.cntf.toNat s.eng.outf.toNat = .overflow ∧ code = .periodOverflow ∨
        (∃ per r, derive c s.eng.cntf.toNat s.eng.outf.toNat = .value per r) ∧
          (∃ i : Channel c, dutyLegal c s.eng.duty[i] = false) ∧ code = .invalidDutyCycle) :
    Effect s .cpac code { s with eng := s.eng.setCfgv false }
  /-- APPLY without valid results (R101). -/
  | applyNotReady (hflags : s.eng.pscv = false ∨ s.eng.cfgv = false) : Effect s .apply .notReady s
  /-- APPLY of which an operation has faulted (R88). -/
  | applyFaulted (hpscv : s.eng.pscv = true) (hcfgv : s.eng.cfgv = true)
      (hops : (runOps (applyOps s.eng) s).1 = .fault) :
    Effect s .apply .hardwareApplyError { (runOps (applyOps s.eng) s).2 with eng := s.eng.setConf false }
  /-- APPLY whose operations have all been performed (R86). -/
  | applied (hpscv : s.eng.pscv = true) (hcfgv : s.eng.cfgv = true)
      (hops : (runOps (applyOps s.eng) s).1 = .ok) :
    Effect s .apply .ok { (runOps (applyOps s.eng) s).2 with eng := s.eng.applied }
  /-- CHON or CHOFF while not configured (R101). -/
  | switchNotReady {i : Instr} {ch : Channel c} {on : Bool} (hi : i.Switches ch on) (hconf : s.eng.conf = false) :
    Effect s i .notReady s
  /-- CHON or CHOFF whose operation has faulted (R98). -/
  | switchFaulted {i : Instr} {ch : Channel c} {on : Bool} (hi : i.Switches ch on) (hconf : s.eng.conf = true)
      (hops : (runOps [.setChannelOutputEnabled ch on] s).1 = .fault) :
    Effect s i .hardwareApplyError
      { (runOps [.setChannelOutputEnabled ch on] s).2 with eng := s.eng.setConf false }
  /-- CHON or CHOFF that has switched its channel (R90, R91). -/
  | switched {i : Instr} {ch : Channel c} {on : Bool} (hi : i.Switches ch on) (hconf : s.eng.conf = true)
      (hops : (runOps [.setChannelOutputEnabled ch on] s).1 = .ok) :
    Effect s i .ok { (runOps [.setChannelOutputEnabled ch on] s).2 with eng := s.eng.setEnabled ch on }

/-- A command run to its end, with the code and the read data of its response: a legal RD answers the register and
writes nothing, every other command has its effect and writes its code (R10, R73, R99). -/
inductive Runs (s : State c) (i : Instr) : Code → Word → State c → Prop
  | read {reg : Reg} {v : Word} (hi : i = .rd reg) (hread : s.eng.read reg = some v) : Runs s i .ok v (s.respond .ok v)
  | ends {code : Code} {u : State c} (heffect : Effect s i code u) :
    Runs s i code 0 ((u.setCode code).respond code 0)

/-- The outcome of a meaning is a run of the command to its end. -/
def RunsTo (s : State c) (i : Instr) (o : Outcome c) : Prop :=
  ∃ code rdata t, Runs s i code rdata t ∧ o = .next t

/-- A command that has had its effect and raises its code has run to its end (R99); so has one that ends OK, which
writes and answers its code in the same way (R10). -/
theorem Effect.runsTo {s u : State c} {i : Instr} {code : Code} (h : Effect s i code u) : RunsTo s i (raise code u) :=
  ⟨code, 0, _, .ends h, rfl⟩

theorem execWr_runsTo (reg : Reg) (wdata : Word) (s : State c) : RunsTo s (.wr reg wdata) (execWr reg wdata s) := by
  unfold execWr
  split
  · next hi => exact (Effect.stored hi).runsTo
  · next hi => exact (Effect.illFormed (by simpa [Instr.wellFormed] using hi)).runsTo

theorem execRd_runsTo (reg : Reg) (s : State c) : RunsTo s (.rd reg) (execRd reg s) := by
  unfold execRd
  split
  · next v hv => exact ⟨.ok, v, _, .read rfl hv, rfl⟩
  · next hv =>
    have hi : (Instr.rd reg).wellFormed c = false := by rw [Instr.wellFormed, ← Engine.read_isSome s.eng, hv]; rfl
    exact (Effect.illFormed hi).runsTo

theorem execCpre_runsTo (s : State c) : RunsTo s .cpre (execCpre s) := by
  obtain ⟨t, ht⟩ : ∃ t, execCpre s = .next t := by
    simp only [execCpre]
    split <;> exact ⟨_, rfl⟩
  rw [ht]
  obtain ⟨p, r, hd, rfl⟩ | ⟨code, hd, rfl⟩ := execCpre_cases ht
  · exact (Effect.prescaler hd).runsTo
  · exact (Effect.noPrescaler hd).runsTo

theorem execCpac_runsTo (s : State c) : RunsTo s .cpac (execCpac s) := by
  obtain ⟨t, ht⟩ : ∃ t, execCpac s = .next t := by
    simp only [execCpac]
    split
    · exact ⟨_, rfl⟩
    · exact ⟨_, rfl⟩
    · split <;> exact ⟨_, rfl⟩
  rw [ht]
  obtain ⟨per, r, hd, hduty, rfl⟩ | ⟨code, hd, rfl⟩ := execCpac_cases ht
  · exact (Effect.period hd hduty).runsTo
  · exact (Effect.noPeriod hd).runsTo

theorem execApply_runsTo (s : State c) : RunsTo s .apply (execApply s) := by
  unfold execApply
  split
  · next hflags => exact (Effect.applyNotReady hflags).runsTo
  · next hflags =>
    simp only [not_or, Bool.not_eq_false] at hflags
    obtain ⟨hpscv, hcfgv⟩ := hflags
    split
    · next t hops =>
      obtain ⟨hans, rfl⟩ := Prod.ext_iff.mp hops
      rw [applyError, runOps_eng]
      exact (Effect.applyFaulted hpscv hcfgv hans).runsTo
    · next t hops =>
      obtain ⟨hans, rfl⟩ := Prod.ext_iff.mp hops
      rw [runOps_eng]
      exact (Effect.applied hpscv hcfgv hans).runsTo

theorem switchChannel_runsTo {i : Instr} {ch : Channel c} {on : Bool} (hi : i.Switches ch on) (s : State c) :
    RunsTo s i (switchChannel ch on s) := by
  unfold switchChannel
  split
  · next hconf => exact (Effect.switchNotReady hi hconf).runsTo
  · next hconf =>
    rw [Bool.not_eq_false] at hconf
    split
    · next t hops =>
      obtain ⟨hans, rfl⟩ := Prod.ext_iff.mp hops
      rw [applyError, runOps_eng]
      exact (Effect.switchFaulted hi hconf hans).runsTo
    · next t hops =>
      obtain ⟨hans, rfl⟩ := Prod.ext_iff.mp hops
      rw [runOps_eng]
      exact (Effect.switched hi hconf hans).runsTo

theorem execChon_runsTo (n : ChannelNumber) (s : State c) : RunsTo s (.chon n) (execChon n s) := by
  by_cases hn : n.val < c.N
  · rw [execChon, channel_some hn]
    exact switchChannel_runsTo ⟨n, channel_some hn, .inl ⟨rfl, rfl⟩⟩ s
  · rw [execChon, channel_none (Nat.not_lt.mp hn)]
    exact (Effect.illFormed (by simpa [Instr.wellFormed] using hn)).runsTo

theorem execChoff_runsTo (n : ChannelNumber) (s : State c) : RunsTo s (.choff n) (execChoff n s) := by
  by_cases hn : n.val < c.N
  · rw [execChoff, channel_some hn]
    exact switchChannel_runsTo ⟨n, channel_some hn, .inr ⟨rfl, rfl⟩⟩ s
  · rw [execChoff, channel_none (Nat.not_lt.mp hn)]
    exact (Effect.illFormed (by simpa [Instr.wellFormed] using hn)).runsTo

/-- Each of the seven commands runs to its end (R62, R132). -/
theorem exec_runs (i : Instr) (s : State) : ∃ code rdata t, Runs s i code rdata t ∧ exec i s = .next t := by
  cases i with
  | wr reg wdata => exact execWr_runsTo reg wdata s
  | rd reg => exact execRd_runsTo reg s
  | cpre => exact execCpre_runsTo s
  | cpac => exact execCpac_runsTo s
  | apply => exact execApply_runsTo s
  | chon n => exact execChon_runsTo n s
  | choff n => exact execChoff_runsTo n s

/-! ### Everything a step can do -/

/-- A property of the machine that each thing a step is made of keeps: the effects of the commands, the write of CODE
and the response that end them, and the other inputs (R8, R53). -/
structure KeptByAll (I : State → Prop) : Prop where
  inputs : ∀ (s : State) (rest : List Input), I s → I { s with inputs := rest }
  effect : ∀ (s u : State) (i : Instr) (code : Code), Effect s i code u → I s → I u
  code : ∀ (s : State) (code : Code), I s → I (s.setCode code)
  response : ∀ (s : State) (code : Code) (rdata : Word), I s → I (s.respond code rdata)
  assertReset : ∀ s : State, I s → I { s with inReset := true, eng := Engine.reset }
  releaseReset : ∀ s : State, I s → I { s with inReset := false }
  startCounter : ∀ (s : State) (n : TimerWord), I s → I (s.startCounter n)
  stopCounter : ∀ s : State, I s → I s.stopCounter
  tick : ∀ s : State, I s → I s.tick

namespace KeptByAll

variable {I : State → Prop} {s t : State}

theorem runs (hI : KeptByAll I) {i : Instr} {code : Code} {rdata : Word} (h : Runs s i code rdata t) (hs : I s) :
    I t := by
  cases h with
  | read hi hread => exact hI.response _ _ _ hs
  | ends heffect => exact hI.response _ _ _ (hI.code _ _ (hI.effect _ _ _ _ heffect hs))

theorem exec (hI : KeptByAll I) {i : Instr} (h : exec i s = .next t) (hs : I s) : I t := by
  obtain ⟨code, rdata, t', hruns, ht'⟩ := exec_runs i s
  obtain rfl : t' = t := by rw [ht'] at h; exact Host.Outcome.next.inj h
  exact hI.runs hruns hs

/-- A transaction keeps it, an illegal word included (R102). -/
theorem runCommand (hI : KeptByAll I) {cmd wdata : Word} (h : runCommand cmd wdata s = .next t) (hs : I s) : I t := by
  unfold Machine.runCommand at h
  split at h
  · exact hI.exec h hs
  · cases h
    exact hI.response _ _ _ (hI.code _ _ hs)

theorem accept (hI : KeptByAll I) {input : Input} (h : accept input s = .next t) (hs : I s) : I t := by
  cases input with
  | command cmd wdata =>
    rw [Machine.accept] at h
    split at h
    · cases h; exact hs
    · exact hI.runCommand h hs
  | assertReset => cases h; exact hI.assertReset s hs
  | releaseReset => cases h; exact hI.releaseReset s hs
  | startCounter n => cases h; exact hI.startCounter s n hs
  | stopCounter => cases h; exact hI.stopCounter s hs
  | tick => cases h; exact hI.tick s hs

/-- A property that each thing a step is made of keeps is kept by every step (R53, R55). -/
theorem step (hI : KeptByAll I) (h : step s = .next t) (hs : I s) : I t := by
  unfold Machine.step nextInput at h
  cases hin : s.inputs with
  | nil => rw [hin] at h; cases h; exact hs
  | cons input rest => rw [hin] at h; exact hI.accept h (hI.inputs s rest hs)

end KeptByAll

end Sys2Proof.Machine

/-! PROOFS. The register file stays legal (10_state.md R15, R20, R22, R23, R25). -/

namespace Sys2Proof.Machine

variable {c : Config}

/-! ### Bounds by bits -/

/-- A word is below a power of two exactly if its bits from there up are zero. -/
theorem word_lt_two_pow_iff {w : Word} {k : Nat} : w.toNat < 2 ^ k ↔ ∀ j, k ≤ j → w.getLsbD j = false := by
  constructor
  · intro h j hj
    rw [← BitVec.testBit_toNat]
    exact Nat.testBit_lt_two_pow (h.trans_le (Nat.pow_le_pow_right (by omega) hj))
  · intro h
    refine Nat.lt_pow_two_of_testBit _ fun j hj => ?_
    rw [BitVec.testBit_toNat]
    exact h j hj

/-- A bit below `k` can be written without leaving the words below `2 ^ k`. -/
theorem setBit_lt_two_pow {w : Word} {k j : Nat} {b : Bool} (hj : j < k) (hk : k ≤ 32) (h : w.toNat < 2 ^ k) :
    (setBit w j b).toNat < 2 ^ k := by
  refine word_lt_two_pow_iff.mpr fun i hi => ?_
  rw [setBit_getLsbD w j i b (by omega), if_neg (by omega)]
  exact word_lt_two_pow_iff.mp h i hi

/-- Every code that is produced is at most 7 (R94). -/
theorem Code.num_le (code : Code) : code.num.toNat ≤ 7 := by cases code <;> decide

/-- A write of a flag leaves CODE (R15). -/
theorem extractCode_setBit {w : Word} {k : Nat} {b : Bool} (hk : 4 ≤ k) (hk' : k < 32) :
    (setBit w k b).extractLsb' 0 4 = w.extractLsb' 0 4 := by
  apply BitVec.eq_of_getLsbD_eq
  intro j hj
  simp [BitVec.getLsbD_extractLsb', setBit_getLsbD w k j b hk', show j ≠ k by omega]

/-! ### The writes of the engine's registers -/

namespace Engine

variable {e : Engine c}

/-- A write of CODE keeps the register file legal (R15, R94). -/
theorem wf_setCode (h : e.wf) (code : Code) : (e.setCode code).wf := by
  obtain ⟨hstatus, -, hrest⟩ := h
  refine ⟨?_, ?_, hrest⟩
  · refine word_lt_two_pow_iff (k := 7) |>.mpr fun j hj => ?_
    rw [setCode_bit, if_neg (by omega)]
    exact word_lt_two_pow_iff (k := 7) |>.mp hstatus j hj
  · rw [setCode_code]
    exact code.num_le

/-- A write of one of the three flags keeps the register file legal (R15). -/
theorem wf_setFlag (h : e.wf) {k : Nat} (hk : 4 ≤ k) (hk' : k < 7) (b : Bool) :
    Engine.wf { e with status := setBit e.status k b } := by
  obtain ⟨hstatus, hcode, hrest⟩ := h
  refine ⟨setBit_lt_two_pow (k := 7) hk' (by omega) hstatus, ?_, hrest⟩
  rw [Engine.code, extractCode_setBit hk (by omega)]
  exact hcode

theorem wf_setPscv (h : e.wf) (b : Bool) : (e.setPscv b).wf := wf_setFlag h (k := 4) (by omega) (by omega) b

theorem wf_setCfgv (h : e.wf) (b : Bool) : (e.setCfgv b).wf := wf_setFlag h (k := 5) (by omega) (by omega) b

theorem wf_setConf (h : e.wf) (b : Bool) : (e.setConf b).wf := wf_setFlag h (k := 6) (by omega) (by omega) b

/-- CHEN holds N bits whatever is written to it, at once or bit by bit (R20). -/
theorem wf_setChen (h : e.wf) {w : Word} (hw : w.toNat < 2 ^ c.N) : Engine.wf { e with chen := w } := by
  obtain ⟨hstatus, hcode, -, hrest⟩ := h
  exact ⟨hstatus, hcode, hw, hrest⟩

theorem wf_setEnabled (h : e.wf) (i : Channel c) (b : Bool) : (e.setEnabled i b).wf := by
  obtain ⟨-, -, hchen, -⟩ := id h
  exact wf_setChen h (setBit_lt_two_pow i.isLt (c.channels_le.trans (by omega)) hchen)

/-- The store of WR reaches no register with a bound but CHEN, which it masks (R20, R72). -/
theorem wf_hostWrite (h : e.wf) (wdata : Word) (reg : Reg) : (e.hostWrite wdata reg).wf := by
  obtain ⟨tgtf, cntf, outf, duty, heq⟩ := e.hostWrite_eq wdata reg
  rw [heq]
  refine wf_setChen (e := { e with tgtf := tgtf, cntf := cntf, outf := outf, duty := duty }) h ?_
  split
  · rw [chenMask_toNat]
    exact Nat.mod_lt _ (Nat.two_pow_pos _)
  · obtain ⟨-, -, hchen, -⟩ := h
    exact hchen

/-- A prescaler within the timer's register, with any remainder and sampled clock (R22). -/
theorem wf_setPrescaler (h : e.wf) {psc : Word} (hpsc : psc.toNat ≤ c.regMax) (clks prem : Word) :
    Engine.wf { e with clks := clks, psc := psc, prem := prem } := by
  obtain ⟨hstatus, hcode, hchen, -, hrest⟩ := h
  exact ⟨hstatus, hcode, hchen, hpsc, hrest⟩

/-- A period within the timer's register and compare values that are at most the period (R23). -/
theorem wf_setPeriod (h : e.wf) {arr : Word} {cmp : Vector Word c.N} (harr : arr.toNat ≤ c.regMax)
    (hcmp : ∀ i : Channel c, cmp[i].toNat ≤ arr.toNat) (arem : Word) :
    Engine.wf { e with cmp := cmp, arr := arr, arem := arem } := by
  obtain ⟨hstatus, hcode, hchen, hpsc, -, hapsc, haarr, -⟩ := h
  exact ⟨hstatus, hcode, hchen, hpsc, harr, hapsc, haarr, hcmp⟩

/-- The applied record takes values that fit the timer's registers (R25). -/
theorem wf_applied (h : e.wf) : e.applied.wf := by
  refine wf_setConf (e := { e with apsc := e.psc, aarr := e.arr }) ?_ true
  obtain ⟨hstatus, hcode, hchen, hpsc, harr, -, -, hcmp⟩ := h
  exact ⟨hstatus, hcode, hchen, hpsc, harr, hpsc, harr, hcmp⟩

/-- Every register that is stored is zero after reset (R36). -/
theorem wf_reset : (Engine.reset c).wf := by
  have hzero : ∀ k : Nat, (0 : Word).toNat < 2 ^ k := fun k => by simp
  have hcmp : ∀ i : Channel c, (reset c).cmp[i] = 0 := fun i => by simp [reset]
  refine ⟨hzero 7, ?_, hzero c.N, Nat.zero_le _, Nat.zero_le _, Nat.zero_le _, Nat.zero_le _, fun i => ?_⟩
  · rw [reset_code]
    exact Nat.zero_le 7
  · rw [hcmp]
    exact Nat.zero_le _

end Engine

/-! ### The effects of the commands -/

/-- The effect of every command keeps the register file legal: the two derivations because what they derive fits the
timer's registers (R80, R82), the others because they write no register that has a bound but STATUS, CHEN and the
applied record. -/
theorem Effect.wf {s u : State c} {i : Instr} {code : Code} (h : Effect s i code u) (hs : s.eng.wf) : u.eng.wf := by
  cases h with
  | illFormed hi => exact hs
  | stored hi => exact Engine.wf_hostWrite hs _ _
  | prescaler hd =>
    obtain ⟨hfit, -, -⟩ := derive_eq_value_iff.mp hd
    obtain ⟨hpsc, -⟩ := derive_value_toNat hd
    exact Engine.wf_setPscv (Engine.wf_setPrescaler hs (hpsc.trans_le hfit) _ _) true
  | noPrescaler hd => exact Engine.wf_setPscv (e := { s.eng with clks := s.clockAnswer.setWidth 32 }) hs false
  | period hd hduty =>
    obtain ⟨hfit, -, -⟩ := derive_eq_value_iff.mp hd
    obtain ⟨harr, -⟩ := derive_value_toNat hd
    have hcmp := fun i => (compares_toNat_le i (hduty i)).trans harr.ge
    exact Engine.wf_setCfgv (Engine.wf_setPeriod hs (harr.trans_le hfit) hcmp _) true
  | noPeriod hd => exact Engine.wf_setCfgv hs false
  | applyNotReady hflags => exact hs
  | applyFaulted hpscv hcfgv hops => exact Engine.wf_setConf hs false
  | applied hpscv hcfgv hops => exact Engine.wf_applied hs
  | switchNotReady hi hconf => exact hs
  | switchFaulted hi hconf hops => exact Engine.wf_setConf hs false
  | switched hi hconf hops => exact Engine.wf_setEnabled hs _ _

/-- A legal register file is kept by all that a step is made of; what is not a command's effect, a write of CODE or a
reset does not touch it. -/
theorem wf_keptByAll : KeptByAll fun s => s.eng.wf where
  inputs _ _ h := h
  effect _ _ _ _ heffect h := heffect.wf h
  code _ code h := Engine.wf_setCode h code
  response _ _ _ h := h
  assertReset _ _ := Engine.wf_reset
  releaseReset _ h := h
  startCounter _ _ h := h
  stopCounter _ h := h
  tick _ h := h

end Sys2Proof.Machine

namespace Sys2Proof

/-- Settles O43: a legal register file is kept by the effect of every command and by every other input. -/
theorem registerFileStaysLegal : Obligations.RegisterFileStaysLegal :=
  fun _ _ hs hstep => Machine.wf_keptByAll.step hstep hs

/-- Settles O44: all that is stored is zero. -/
theorem registerFileIsLegalAtReset : Obligations.RegisterFileIsLegalAtReset := Machine.Engine.wf_reset

end Sys2Proof

/-! PROOFS. While the engine is configured, the applied record describes the timer (10_state.md R25, R28 to R31). -/

namespace Sys2Proof.Machine

variable {c : Config}

/-! ### The record and the programmed fields -/

/-- The peripheral holds a record of a prescaler and a period: its clock is enabled, it is programmed with the two
values, and every preload is armed (R25, R28 to R31). -/
structure Periph.Holds (p : Periph c) (psc arr : Word) : Prop where
  clkEn : p.clkEn = true
  psc : p.psc = timerWord c psc
  arr : p.arr = timerWord c arr
  arrPreload : p.arrPreload = true
  ccrPreload : ∀ i : Channel c, p.ccrPreload[i] = true

/-- The invariant: while CONF is set, the peripheral holds the applied record (R25). -/
theorem State.recordHolds_iff {s : State c} :
    s.recordHolds ↔ (s.eng.conf = true → s.periph.Holds s.eng.apsc s.eng.aarr) :=
  forall_congr' fun _ => ⟨fun ⟨hclk, hpsc, harr, hpre, hccr⟩ => ⟨hclk, hpsc, harr, hpre, hccr⟩,
    fun ⟨hclk, hpsc, harr, hpre, hccr⟩ => ⟨hclk, hpsc, harr, hpre, hccr⟩⟩

/-- Whether a record is held is a matter of the programmed fields (R27). -/
theorem Periph.Holds.congr {p q : Periph c} {psc arr : Word} (hp : p.Holds psc arr)
    (h : q.programmed = p.programmed) : q.Holds psc arr := by
  simp only [Periph.programmed, Programmed.mk.injEq] at h
  obtain ⟨hclk, hpsc, harr, hpre, -, hccr, -⟩ := h
  exact ⟨hclk.trans hp.clkEn, hpsc.trans hp.psc, harr.trans hp.arr, hpre.trans hp.arrPreload,
    fun i => (congrArg (·[i]) hccr).trans (hp.ccrPreload i)⟩

/-- Without CONF the applied record means nothing (R25). -/
theorem State.recordHolds_of_unconfigured {s : State c} (h : s.eng.conf = false) : s.recordHolds := by
  intro hconf
  rw [h] at hconf
  cases hconf

/-- What leaves CONF, the applied record and the programmed fields keeps the invariant. -/
theorem State.recordHolds_of_same {s t : State c} (hs : s.recordHolds) (hconf : t.eng.conf = s.eng.conf)
    (hpsc : t.eng.apsc = s.eng.apsc) (harr : t.eng.aarr = s.eng.aarr)
    (hp : t.periph.programmed = s.periph.programmed) : t.recordHolds := by
  rw [State.recordHolds_iff, hconf, hpsc, harr]
  exact fun h => (State.recordHolds_iff.mp hs h).congr hp

/-! ### The operations of APPLY, CHON and CHOFF -/

namespace Periph

variable {p : Periph c} {op : PeriphOp c}

/-- No operation disables the clock (R28). -/
theorem perform_clkEn (h : p.clkEn = true) : (p.perform op).clkEn = true := by
  cases op with
  | enableClock => rfl
  | _ => exact h

/-- No operation takes the period's preload away (R30). -/
theorem perform_arrPreload (h : p.arrPreload = true) : (p.perform op).arrPreload = true := by
  cases op with
  | enablePeriodPreload => rfl
  | _ => exact h

/-- No operation takes a channel's preload away (R31). -/
theorem perform_ccrPreload_armed {j : Channel c} (h : p.ccrPreload[j] = true) :
    (p.perform op).ccrPreload[j] = true := by
  rw [perform_ccrPreload]
  cases op with
  | enableChannelPreload i => simp [h]
  | _ => exact h

/-- An operation that writes no other prescaler keeps the one programmed (R29). -/
theorem perform_psc_eq {v : TimerWord c} (hop : ∀ w, op = .setPrescaler w → w = v) (h : p.psc = v) :
    (p.perform op).psc = v := by
  cases op with
  | setPrescaler w => exact hop w rfl
  | _ => exact h

/-- An operation that writes no other period keeps the one programmed (R30). -/
theorem perform_arr_eq {v : TimerWord c} (hop : ∀ w, op = .setPeriod w → w = v) (h : p.arr = v) :
    (p.perform op).arr = v := by
  cases op with
  | setPeriod w => exact hop w rfl
  | _ => exact h

/-- Switching an output keeps the record (R90, R91). -/
theorem Holds.setChannelOutputEnabled {psc arr : Word} (h : p.Holds psc arr) (i : Channel c) (on : Bool) :
    (p.perform (.setChannelOutputEnabled i on)).Holds psc arr :=
  ⟨h.clkEn, h.psc, h.arr, h.arrPreload, h.ccrPreload⟩

/-- What every operation of a list keeps holds after the list, if it held before or some operation of the list brings
it about. -/
theorem foldl_perform_of_kept {Q : Periph c → Prop} {ops : List (PeriphOp c)} :
    ∀ {p : Periph c}, (∀ op ∈ ops, ∀ q : Periph c, Q q → Q (q.perform op)) →
      (Q p ∨ ∃ op ∈ ops, ∀ q : Periph c, Q (q.perform op)) →
      Q (ops.foldl perform p) := by
  induction ops with
  | nil =>
    intro p _ h
    obtain h | ⟨op, hop, -⟩ := h
    · exact h
    · cases hop
  | cons op ops ih =>
    intro p hkeep h
    refine ih (fun op' hop' => hkeep op' (List.mem_cons_of_mem _ hop')) ?_
    obtain h | ⟨op', hop', h⟩ := h
    · exact .inl (hkeep op List.mem_cons_self p h)
    · obtain rfl | hop' := List.mem_cons.mp hop'
      · exact .inl (h p)
      · exact .inr ⟨op', hop', h⟩

end Periph

/-- The operations of an APPLY: on each channel its compare value and its output enable, and on the full path the
shared operations and each channel's preload (R86). -/
theorem mem_applyOps {e : Engine c} {op : PeriphOp c} :
    op ∈ applyOps e ↔
      (e.fullPath = true ∧ op ∈ sharedOps e) ∨
      (∃ i : Channel c, op = .setChannelCompare i (timerWord c e.cmp[i]) ∨
        e.fullPath = true ∧ op = .enableChannelPreload i) ∨
      ∃ i : Channel c, op = .setChannelOutputEnabled i (e.enabled i) := by
  simp only [applyOps, channels, List.mem_append, List.mem_ite_nil_right, List.mem_flatMap, List.mem_finRange, true_and,
    compareOps, List.mem_cons, List.not_mem_nil, or_false, List.mem_map, enableOp, or_assoc, eq_comm (b := op)]

/-- The re-apply path is taken where prescaler and period are the applied ones (R86). -/
theorem Engine.fullPath_eq_false {e : Engine c} :
    e.fullPath = false ↔ e.conf = true ∧ e.psc = e.apsc ∧ e.arr = e.aarr := by
  simp [Engine.fullPath]

/-- APPLY writes no prescaler but PSC (R86). -/
theorem setPrescaler_mem_applyOps {e : Engine c} {w : TimerWord c} (h : .setPrescaler w ∈ applyOps e) :
    w = timerWord c e.psc := by
  obtain ⟨-, hw⟩ : e.fullPath = true ∧ w = timerWord c e.psc := by simpa [mem_applyOps, sharedOps] using h
  exact hw

/-- APPLY writes no period but ARR (R86). -/
theorem setPeriod_mem_applyOps {e : Engine c} {w : TimerWord c} (h : .setPeriod w ∈ applyOps e) :
    w = timerWord c e.arr := by
  obtain ⟨-, hw⟩ : e.fullPath = true ∧ w = timerWord c e.arr := by simpa [mem_applyOps, sharedOps] using h
  exact hw

/-- What the operations of an APPLY keep holds after them, if the full path brings it about and it held before where the
other path is taken (R86). -/
theorem applyOps_of_kept {Q : Periph c → Prop} {e : Engine c} {p : Periph c} {op : PeriphOp c}
    (hop : e.fullPath = true → op ∈ applyOps e) (hsets : ∀ q : Periph c, Q (q.perform op))
    (hkeep : ∀ op ∈ applyOps e, ∀ q : Periph c, Q q → Q (q.perform op)) (hheld : e.fullPath = false → Q p) :
    Q ((applyOps e).foldl Periph.perform p) := by
  refine Periph.foldl_perform_of_kept hkeep ?_
  cases hfull : e.fullPath with
  | true => exact .inr ⟨op, hop hfull, hsets⟩
  | false => exact .inl (hheld hfull)

/-- The operations of an APPLY leave a peripheral that holds PSC and ARR as its record: the full path writes all of it,
the re-apply path finds it there and keeps it (R86, R28 to R31). -/
theorem applyOps_holds {e : Engine c} {p : Periph c} (h : e.fullPath = false → p.Holds e.psc e.arr) :
    ((applyOps e).foldl Periph.perform p).Holds e.psc e.arr where
  clkEn := applyOps_of_kept (Q := fun q => q.clkEn = true) (op := .enableClock)
    (fun hfull => mem_applyOps.mpr (.inl ⟨hfull, by simp [sharedOps]⟩)) (fun _ => rfl)
    (fun _ _ _ => Periph.perform_clkEn) fun hfull => (h hfull).clkEn
  psc := applyOps_of_kept (Q := fun q => q.psc = timerWord c e.psc) (op := .setPrescaler (timerWord c e.psc))
    (fun hfull => mem_applyOps.mpr (.inl ⟨hfull, by simp [sharedOps]⟩)) (fun _ => rfl)
    (fun _ hop _ => Periph.perform_psc_eq fun _ heq => setPrescaler_mem_applyOps (heq ▸ hop))
    fun hfull => (h hfull).psc
  arr := applyOps_of_kept (Q := fun q => q.arr = timerWord c e.arr) (op := .setPeriod (timerWord c e.arr))
    (fun hfull => mem_applyOps.mpr (.inl ⟨hfull, by simp [sharedOps]⟩)) (fun _ => rfl)
    (fun _ hop _ => Periph.perform_arr_eq fun _ heq => setPeriod_mem_applyOps (heq ▸ hop))
    fun hfull => (h hfull).arr
  arrPreload := applyOps_of_kept (Q := fun q => q.arrPreload = true) (op := .enablePeriodPreload)
    (fun hfull => mem_applyOps.mpr (.inl ⟨hfull, by simp [sharedOps]⟩)) (fun _ => rfl)
    (fun _ _ _ => Periph.perform_arrPreload) fun hfull => (h hfull).arrPreload
  ccrPreload i := applyOps_of_kept (Q := fun q => q.ccrPreload[i] = true) (op := .enableChannelPreload i)
    (fun hfull => mem_applyOps.mpr (.inr (.inl ⟨i, .inr ⟨hfull, rfl⟩⟩)))
    (fun q => (q.perform_ccrPreload _ i).trans (if_pos rfl))
    (fun _ _ _ => Periph.perform_ccrPreload_armed) fun hfull => (h hfull).ccrPreload i

/-! ### The effects of the commands -/

/-- The effect of every command keeps the invariant: APPLY because its operations leave what it then records, a fault
because it clears CONF, CHON and CHOFF because they switch an output only, the others because they write neither CONF
nor the record nor the peripheral. -/
theorem Effect.recordHolds {s u : State c} {i : Instr} {code : Code} (h : Effect s i code u) (hs : s.recordHolds) :
    u.recordHolds := by
  cases h with
  | illFormed hi => exact hs
  | @stored reg wdata hi =>
    obtain ⟨tgtf, cntf, outf, duty, heq⟩ := s.eng.hostWrite_eq wdata reg
    rw [heq]
    exact hs
  | prescaler hd => exact State.recordHolds_of_same hs (Engine.setPscv_conf _ _) rfl rfl rfl
  | noPrescaler hd => exact State.recordHolds_of_same hs (Engine.setPscv_conf _ _) rfl rfl rfl
  | period hd hduty => exact State.recordHolds_of_same hs (Engine.setCfgv_conf _ _) rfl rfl rfl
  | noPeriod hd => exact State.recordHolds_of_same hs (Engine.setCfgv_conf _ _) rfl rfl rfl
  | applyNotReady hflags => exact hs
  | applyFaulted hpscv hcfgv hops => exact State.recordHolds_of_unconfigured (Engine.setConf_conf _ _)
  | applied hpscv hcfgv hops =>
    have hreapply : s.eng.fullPath = false → s.periph.Holds s.eng.psc s.eng.arr := by
      intro hfull
      obtain ⟨hconf, hpsc, harr⟩ := Engine.fullPath_eq_false.mp hfull
      rw [hpsc, harr]
      exact State.recordHolds_iff.mp hs hconf
    exact State.recordHolds_iff.mpr fun _ => (applyOps_holds hreapply).congr (runOps_programmed_of_ok hops)
  | switchNotReady hi hconf => exact hs
  | switchFaulted hi hconf hops => exact State.recordHolds_of_unconfigured (Engine.setConf_conf _ _)
  | switched hi hconf hops =>
    exact State.recordHolds_iff.mpr fun _ =>
      ((State.recordHolds_iff.mp hs hconf).setChannelOutputEnabled _ _).congr (runOps_programmed_of_ok hops)

/-- The invariant is kept by all that a step is made of: a reset clears CONF, and neither the host's start and stop nor
a tick writes a programmed field (R53, R119). -/
theorem recordHolds_keptByAll : KeptByAll State.recordHolds where
  inputs _ _ h := h
  effect _ _ _ _ heffect h := heffect.recordHolds h
  code _ _ h := State.recordHolds_of_same h (Engine.setCode_conf _ _) rfl rfl rfl
  response _ _ _ h := h
  assertReset _ _ := State.recordHolds_of_unconfigured Engine.reset_conf
  releaseReset _ h := h
  startCounter _ _ h := h
  stopCounter _ h := h
  tick _ h := State.recordHolds_of_same h rfl rfl rfl (Periph.tick_programmed _ _)

end Sys2Proof.Machine

namespace Sys2Proof

/-- Settles O45: the invariant is kept by the effect of every command and by every other input. -/
theorem appliedRecordKeepsDescribingTheTimer : Obligations.AppliedRecordKeepsDescribingTheTimer :=
  fun _ _ hs hstep => Machine.recordHolds_keptByAll.step hstep hs

/-- Settles O46: CONF is 0 after reset. -/
theorem appliedRecordHoldsAtReset : Obligations.AppliedRecordHoldsAtReset :=
  Machine.State.recordHolds_of_unconfigured Machine.Engine.reset_conf

end Sys2Proof

/-! PROOFS. How a command ends: one response, the code, and the flags of STATUS (10_state.md R15, R26). -/

namespace Sys2Proof.Machine

variable {c : Config} {s t u : State c} {i : Instr} {code : Code} {rdata : Word}

/-- A term that no legal word gives is a WR, an RD, a CHON or a CHOFF (R62). -/
theorem ne_of_illFormed (hi : i.wellFormed c = false) : i ≠ .cpre ∧ i ≠ .cpac ∧ i ≠ .apply := by
  refine ⟨?_, ?_, ?_⟩ <;> rintro rfl <;> cases hi

/-- CHON and CHOFF are no other command (R62). -/
theorem ne_of_switches {ch : Channel c} {on : Bool} (hi : i.Switches ch on) :
    i ≠ .cpre ∧ i ≠ .cpac ∧ i ≠ .apply := by
  obtain ⟨n, -, ⟨rfl, -⟩ | ⟨rfl, -⟩⟩ := hi <;> simp

/-- RD switches no output (R73). -/
theorem not_switches_rd {reg : Reg} {ch : Channel c} {on : Bool} : ¬ (Instr.rd reg).Switches ch on := by
  rintro ⟨n, -, ⟨h, -⟩ | ⟨h, -⟩⟩ <;> cases h

/-! ### The response -/

/-- A command returns no response before it ends (R56). -/
theorem Effect.responses (h : Effect s i code u) : u.responses = s.responses := by
  cases h with
  | applyFaulted hpscv hcfgv hops => exact runOps_responses _ _
  | applied hpscv hcfgv hops => exact runOps_responses _ _
  | switchFaulted hi hconf hops => exact runOps_responses _ _
  | switched hi hconf hops => exact runOps_responses _ _
  | _ => rfl

/-- A command returns one response (R56). -/
theorem Runs.responded (h : Runs s i code rdata t) : s.responded t code rdata := by
  cases h with
  | read hi hread => rfl
  | ends heffect => exact congrArg (· ++ [⟨code, 0⟩]) heffect.responses

/-- An RD that ends with a write of CODE is one of a register that is not there (R73). -/
theorem Effect.not_present {reg : Reg} (h : Effect s (.rd reg) code u) : reg.present c = false := by
  cases h with
  | illFormed hi => exact hi
  | switchNotReady hi hconf => exact absurd hi not_switches_rd
  | switchFaulted hi hconf hops => exact absurd hi not_switches_rd
  | switched hi hconf hops => exact absurd hi not_switches_rd

/-- A legal RD answers OK and writes no register (R73). -/
theorem Runs.of_legal_rd {reg : Reg} (h : Runs s (.rd reg) code rdata t) (hreg : reg.present c = true) :
    code = .ok ∧ t.eng = s.eng := by
  cases h with
  | read hi hread => exact ⟨rfl, rfl⟩
  | ends heffect =>
    rw [heffect.not_present] at hreg
    cases hreg

/-- Every other command answers without read data, and STATUS.CODE takes its code (R15, R67, R99). -/
theorem Runs.of_not_legal_rd (h : Runs s i code rdata t) (hi : ∀ reg : Reg, reg.present c = true → i ≠ .rd reg) :
    rdata = 0 ∧ t.eng.code = code.num := by
  cases h with
  | @read reg v hrd hread =>
    have hreg : reg.present c = true := by rw [← s.eng.read_isSome, hread]; rfl
    exact absurd hrd (hi reg hreg)
  | ends heffect => exact ⟨rfl, Engine.setCode_code _ _⟩

/-! ### The flags -/

/-- The host's store leaves STATUS, which is read-only (R14, R72). -/
theorem Engine.hostWrite_status (e : Engine c) (wdata : Word) (reg : Reg) :
    (e.hostWrite wdata reg).status = e.status := by
  obtain ⟨tgtf, cntf, outf, duty, heq⟩ := e.hostWrite_eq wdata reg
  rw [heq]

theorem Engine.hostWrite_pscv (e : Engine c) (wdata : Word) (reg : Reg) : (e.hostWrite wdata reg).pscv = e.pscv :=
  congrArg (·.getLsbD 4) (e.hostWrite_status wdata reg)

theorem Engine.hostWrite_cfgv (e : Engine c) (wdata : Word) (reg : Reg) : (e.hostWrite wdata reg).cfgv = e.cfgv :=
  congrArg (·.getLsbD 5) (e.hostWrite_status wdata reg)

theorem Engine.hostWrite_conf (e : Engine c) (wdata : Word) (reg : Reg) : (e.hostWrite wdata reg).conf = e.conf :=
  congrArg (·.getLsbD 6) (e.hostWrite_status wdata reg)

/-- A write of one bit of CHEN leaves the flags (R90, R91). -/
@[simp] theorem Engine.setEnabled_pscv (e : Engine c) (ch : Channel c) (on : Bool) :
    (e.setEnabled ch on).pscv = e.pscv := rfl

@[simp] theorem Engine.setEnabled_cfgv (e : Engine c) (ch : Channel c) (on : Bool) :
    (e.setEnabled ch on).cfgv = e.cfgv := rfl

@[simp] theorem Engine.setEnabled_conf (e : Engine c) (ch : Channel c) (on : Bool) :
    (e.setEnabled ch on).conf = e.conf := rfl

/-- PSCV after the effect of a command: CPRE says whether it has derived a prescaler (R26). -/
theorem Effect.pscv (h : Effect s i code u) :
    u.eng.pscv = if i = .cpre then decide (code = .ok) else s.eng.pscv := by
  cases h with
  | illFormed hi => simp [ne_of_illFormed hi]
  | stored hi => exact Engine.hostWrite_pscv _ _ _
  | prescaler hd => simp
  | noPrescaler hd => obtain ⟨-, rfl⟩ | ⟨-, rfl⟩ := hd <;> simp
  | period hd hduty => exact Engine.setCfgv_pscv _ _
  | noPeriod hd => exact Engine.setCfgv_pscv _ _
  | applyNotReady hflags => rfl
  | applyFaulted hpscv hcfgv hops => exact Engine.setConf_pscv _ _
  | applied hpscv hcfgv hops => exact Engine.applied_pscv _
  | switchNotReady hi hconf => simp [ne_of_switches hi]
  | switchFaulted hi hconf hops => simp [ne_of_switches hi]
  | switched hi hconf hops => simp [ne_of_switches hi]

/-- CFGV after the effect of a command: CPAC says whether it has derived a period and compare values (R26). -/
theorem Effect.cfgv (h : Effect s i code u) :
    u.eng.cfgv = if i = .cpac then decide (code = .ok) else s.eng.cfgv := by
  cases h with
  | illFormed hi => simp [ne_of_illFormed hi]
  | stored hi => exact Engine.hostWrite_cfgv _ _ _
  | prescaler hd => exact Engine.setPscv_cfgv _ _
  | noPrescaler hd => exact Engine.setPscv_cfgv _ _
  | period hd hduty => simp
  | noPeriod hd => obtain ⟨-, rfl⟩ | ⟨-, rfl⟩ | ⟨-, -, rfl⟩ := hd <;> simp
  | applyNotReady hflags => rfl
  | applyFaulted hpscv hcfgv hops => exact Engine.setConf_cfgv _ _
  | applied hpscv hcfgv hops => exact Engine.applied_cfgv _
  | switchNotReady hi hconf => simp [ne_of_switches hi]
  | switchFaulted hi hconf hops => simp [ne_of_switches hi]
  | switched hi hconf hops => simp [ne_of_switches hi]

/-- CONF after the effect of a command: set by an APPLY that succeeds, cleared by a fault (R26). -/
theorem Effect.conf (h : Effect s i code u) :
    u.eng.conf =
      if i = .apply ∧ code = .ok then true else if code = .hardwareApplyError then false else s.eng.conf := by
  cases h with
  | illFormed hi => simp
  | stored hi => exact Engine.hostWrite_conf _ _ _
  | prescaler hd => exact Engine.setPscv_conf _ _
  | noPrescaler hd => obtain ⟨-, rfl⟩ | ⟨-, rfl⟩ := hd <;> exact Engine.setPscv_conf _ _
  | period hd hduty => exact Engine.setCfgv_conf _ _
  | noPeriod hd => obtain ⟨-, rfl⟩ | ⟨-, rfl⟩ | ⟨-, -, rfl⟩ := hd <;> simp
  | applyNotReady hflags => simp
  | applyFaulted hpscv hcfgv hops => simp
  | applied hpscv hcfgv hops => simp
  | switchNotReady hi hconf => simp
  | switchFaulted hi hconf hops => simp
  | switched hi hconf hops => simp [ne_of_switches hi]

/-- The table of flags, for a command run to its end: the write of CODE that ends it leaves the flags, and a legal RD
writes nothing (R26). -/
theorem Runs.flags (h : Runs s i code rdata t) :
    t.eng.pscv = (if i = .cpre then decide (code = .ok) else s.eng.pscv) ∧
    t.eng.cfgv = (if i = .cpac then decide (code = .ok) else s.eng.cfgv) ∧
    t.eng.conf =
      (if i = .apply ∧ code = .ok then true else if code = .hardwareApplyError then false else s.eng.conf) := by
  cases h with
  | read hi hread => subst hi; exact ⟨rfl, rfl, rfl⟩
  | ends heffect =>
    exact ⟨(Engine.setCode_pscv _ _).trans heffect.pscv, (Engine.setCode_cfgv _ _).trans heffect.cfgv,
      (Engine.setCode_conf _ _).trans heffect.conf⟩

end Sys2Proof.Machine

namespace Sys2Proof

/-- Settles O12: every command runs to its end, as a legal RD or with a write of CODE. -/
theorem everyCommandAnswersOnce : Obligations.EveryCommandAnswersOnce := by
  intro i s
  obtain ⟨code, rdata, t, hruns, hexec⟩ := Machine.exec_runs i s
  refine ⟨t, code, rdata, hexec, hruns.responded, ?_, hruns.of_not_legal_rd⟩
  rintro ⟨reg, hreg, rfl⟩
  exact hruns.of_legal_rd hreg

/-- Settles O39: the table of flags holds of every command run to its end. -/
theorem flagsChangeOnlyAsTheTableSays : Obligations.FlagsChangeOnlyAsTheTableSays := by
  intro i s
  obtain ⟨code, rdata, t, hruns, hexec⟩ := Machine.exec_runs i s
  exact ⟨t, code, rdata, hexec, hruns.responded, hruns.flags⟩

end Sys2Proof

/-! PROOFS. PARAM, the registers after reset, and the host's acts at the counter (10_state.md R16, R33, R36). -/

namespace Sys2Proof.Machine

variable {c : Config}

/-! ### PARAM -/

/-- A byte put below a word is the word's low byte. -/
theorem toNat_append_byte {w : Nat} (x : BitVec w) {n : Nat} (hn : n < 2 ^ 8) :
    (x ++ BitVec.ofNat 8 n).toNat = x.toNat * 2 ^ 8 + n := by
  rw [BitVec.toNat_append, BitVec.toNat_ofNat, Nat.mod_eq_of_lt hn, ← Nat.shiftLeft_add_eq_or_of_lt hn,
    Nat.shiftLeft_eq]

/-- PARAM as a number: its four bytes, each large enough for its parameter by the bounds of R7 (R16). -/
theorem paramWord_toNat (c : Config) :
    (paramWord c).toNat = ((c.FW * 2 ^ 8 + c.DF) * 2 ^ 8 + c.W) * 2 ^ 8 + c.N := by
  have hN := c.channels_le
  have hW := c.width_le
  have hFW := c.freq_le
  have hDF := c.frac_le
  rw [paramWord, toNat_append_byte _ (by omega), toNat_append_byte _ (by omega), toNat_append_byte _ (by omega),
    BitVec.toNat_ofNat, Nat.mod_eq_of_lt (by omega)]

/-- PARAM on this hardware (R16). -/
theorem paramWord_hardware : paramWord .hardware = 0x20101004 := by decide

/-! ### Reset -/

/-- Every register that is stored reads zero after reset (R36). -/
theorem Engine.read_reset {reg : Reg} (hreg : reg.present c = true) (hparam : reg ≠ .param) :
    (Engine.reset c).read reg = some 0 := by
  cases reg with
  | param => exact absurd rfl hparam
  | duty i =>
    have hi : i.val < c.N := of_decide_eq_true hreg
    simp [Engine.read, Engine.reset, channel_some hi]
  | cmp i =>
    have hi : i.val < c.N := of_decide_eq_true hreg
    simp [Engine.read, Engine.reset, channel_some hi]
  | _ => rfl

/-- In an empty log no output has been switched. -/
theorem loadedBeforeSwitched_nil : loadedBeforeSwitched ([] : List (OpRecord c)) := by
  intro before after i b a h
  simp at h

end Sys2Proof.Machine

namespace Sys2Proof

open Machine

/-- Settles O17: PARAM's four bytes do not overlap. -/
theorem paramShowsTheConfiguration : Obligations.ParamShowsTheConfiguration := by
  refine ⟨rfl, rfl, fun c e => ⟨rfl, ?_⟩, fun _ => congrArg some paramWord_hardware⟩
  have hN := c.channels_le
  have hW := c.width_le
  have hDF := c.frac_le
  rw [paramWord_toNat]
  omega

/-- Settles O48: the log is empty and CONF is 0. -/
theorem nothingSwitchedAtReset : Obligations.NothingSwitchedAtReset := by
  refine ⟨rfl, loadedBeforeSwitched_nil, fun hconf => ?_⟩
  have hclear : State.reset.eng.conf = false := Engine.reset_conf
  rw [hclear] at hconf
  cases hconf

/-- Settles O49: every register that is stored is zero, so every flag is clear and the engine is not configured. -/
theorem resetRegisterValues : Obligations.ResetRegisterValues :=
  ⟨fun _ => Engine.read_reset, congrArg some paramWord_hardware, Engine.reset_code, Engine.reset_pscv,
    Engine.reset_cfgv, Engine.reset_conf, if_neg (by simp [State.reset])⟩

/-- Settles O51: the start and the stop write the counter and its enable. -/
theorem hostStartsAndStopsTheCounter : Obligations.HostStartsAndStopsTheCounter :=
  fun _ _ => ⟨⟨_, rfl, rfl, rfl, rfl, rfl⟩, ⟨_, rfl, rfl, rfl, rfl, rfl⟩⟩

end Sys2Proof

/-! PROOFS. The peripheral operations: their effects, their answers, and the ticks before them (20_memory.md R42 to
R49, R51, R53). -/

namespace Sys2Proof.Machine

variable {c : Config}

/-! ### What the two operations on a preloaded register do -/

namespace Periph

variable {p : Periph c} {i : Channel c}

/-- A period written without preload goes through to the timer's own copy (R45). -/
theorem perform_setPeriod_direct (v : TimerWord c) (h : p.arrPreload = false) :
    p.perform (.setPeriod v) = { p with arr := v, arrActive := v } := by
  simp [perform, h]

/-- A period written under preload waits for the update event (R45). -/
theorem perform_setPeriod_preloaded (v : TimerWord c) (h : p.arrPreload = true) :
    p.perform (.setPeriod v) = { p with arr := v } := by
  simp [perform, h]

/-- A compare value written without preload goes through to the timer's own copy (R47). -/
theorem perform_setChannelCompare_direct (v : TimerWord c) (h : p.ccrPreload[i] = false) :
    p.perform (.setChannelCompare i v) =
      { p with ccr := p.ccr.set i.val v i.isLt, ccrActive := p.ccrActive.set i.val v i.isLt } := by
  simp only [perform, h, Bool.false_eq_true, if_false]

/-- A compare value written under preload waits for the update event (R47). -/
theorem perform_setChannelCompare_preloaded (v : TimerWord c) (h : p.ccrPreload[i] = true) :
    p.perform (.setChannelCompare i v) = { p with ccr := p.ccr.set i.val v i.isLt } := by
  simp only [perform, h, if_true]

/-- An operation writes what its arguments and the preloads say, and leaves the preloads it looks at; so it writes the
same again (R51). -/
theorem perform_perform (p : Periph c) (op : PeriphOp c) : (p.perform op).perform op = p.perform op := by
  cases op with
  | enableClock => rfl
  | setPrescaler v => rfl
  | setPeriod v =>
    cases h : p.arrPreload with
    | false =>
      rw [perform_setPeriod_direct v h]
      exact perform_setPeriod_direct v h
    | true =>
      rw [perform_setPeriod_preloaded v h]
      exact perform_setPeriod_preloaded v h
  | enablePeriodPreload => rfl
  | setChannelCompare i v =>
    cases h : p.ccrPreload[i] with
    | false =>
      rw [perform_setChannelCompare_direct v h]
      refine Eq.trans (perform_setChannelCompare_direct v h) ?_
      simp only [Vector.set_set]
    | true =>
      rw [perform_setChannelCompare_preloaded v h]
      refine Eq.trans (perform_setChannelCompare_preloaded v h) ?_
      simp only [Vector.set_set]
  | enableChannelPreload i => simp only [perform, Vector.set_set]
  | setChannelOutputEnabled i b => simp only [perform, Vector.set_set]

end Periph

/-! ### The answer to one operation -/

section Answer

variable {s : State c} {op : PeriphOp c}

theorem State.answerOf_neverFault (h : s.env.faults = .neverFault) : s.answerOf op = .ok := by
  rw [State.answerOf, h, FaultOracle.answer]

theorem State.answerOf_alwaysFault (h : s.env.faults = .alwaysFault) : s.answerOf op = .fault := by
  rw [State.answerOf, h, FaultOracle.answer]

/-- `ClockGated` looks at the clock gate, which no tick changes (R42, R53). -/
theorem State.answerOf_clockGated (h : s.env.faults = .clockGated) :
    s.answerOf op = .ok ↔ op = .enableClock ∨ s.periph.clkEn = true := by
  rw [State.answerOf, h, FaultOracle.answer, State.ticksBefore_clkEn]
  simp [or_iff_not_imp_left]

/-- `FaultAt` counts the operations in the log (R42, log 4). -/
theorem State.answerOf_faultAt {k : Nat} (h : s.env.faults = .faultAt k) :
    s.answerOf op = .fault ↔ s.trace.length + 1 = k := by
  rw [State.answerOf, h, FaultOracle.answer]
  simp

end Answer

/-! ### The ticks before one operation -/

/-- The ticks listed for the next operation pass and are used up (R53, log 5). -/
theorem State.ticksBefore_listed {s : State c} {k : Nat} {rest : List Nat} (h : s.env.ticks = k :: rest) :
    s.ticksBefore = { s.ticks k with env := { (s.ticks k).env with ticks := rest } } := by
  obtain ⟨-, -, -, -, -, -, -, -, -, -, hticks⟩ := State.ticks_spec k s
  simp only [State.ticksBefore, h, List.headD_cons, hticks, List.tail_cons]

end Sys2Proof.Machine

namespace Sys2Proof

open Machine

/-- Settles O52: each clause is the operation's own equation, where it looks at a preload the one for that preload. -/
theorem operationEffects : Obligations.OperationEffects :=
  fun _ _ v _ _ => ⟨rfl, rfl, Periph.perform_setPeriod_direct v, Periph.perform_setPeriod_preloaded v, rfl,
    Periph.perform_setChannelCompare_direct v, Periph.perform_setChannelCompare_preloaded v, rfl, rfl⟩

/-- Settles O53: by cases on the operation and, where it looks at a preload, on the preload. -/
theorem operationsAreIdempotent : Obligations.OperationsAreIdempotent :=
  fun _ => Periph.perform_perform

/-- Settles O54: without a tick before it the operation finds the peripheral as it is, and each named oracle gives its
answer. -/
theorem oneOperationIsIssuedAndAnswered : Obligations.OneOperationIsIssuedAndAnswered := by
  intro op s hquiet
  have hperiph := State.afterOp_quiet hquiet op
  refine ⟨fun hfault => ?_, fun hok => ?_, State.afterOp_trace op s, State.afterOp_eng op s,
    State.answerOf_neverFault, State.answerOf_alwaysFault, State.answerOf_clockGated,
    fun _ => State.answerOf_faultAt⟩
  · rw [hperiph, hfault, if_neg (by simp)]
  · rw [hperiph, if_pos hok]

/-- Settles O55: the operation acts on the state that the listed ticks have left. -/
theorem ticksFallBetweenOperations : Obligations.TicksFallBetweenOperations := by
  intro op s k rest hticks
  have hbefore := State.ticksBefore_listed hticks
  refine ⟨?_, ?_, ?_, State.afterOp_trace op s, State.afterOp_eng op s⟩
  · simp only [State.afterOp, hbefore]
  · simp only [State.afterOp, hbefore]
  · simp only [State.afterOp, hbefore]
    exact State.ticks_elapsed k s

end Sys2Proof

/-! PROOFS. What a command reaches outside the engine, and which faults it can meet (20_memory.md R38, R42, R50). -/

namespace Sys2Proof.Machine

variable {c : Config} {s t u : State c} {i : Instr} {code code' : Code} {rdata rdata' : Word}

/-! ### What a command reaches -/

/-- The operations of a command leave what they do not reach (R38, R53). -/
theorem runOps_sameAround (ops : List (PeriphOp c)) (s : State c) : s.sameAround (runOps ops s).2 := by
  obtain ⟨-, hcntEn, hreset, hinputs, -, hclock, hqueries, -⟩ := runOps_spec ops s
  exact ⟨hcntEn, hclock, hqueries, hinputs, hreset⟩

/-- A command has one of three reaches: nothing outside the engine, the clock port for CPRE, the timer for APPLY, CHON
and CHOFF (R38, R50). -/
inductive Reach (s : State c) (i : Instr) (t : State c) : Prop
  | engine (hi : i ≠ .cpre) (hsame : s.sameOutside t)
  | clock (hi : i = .cpre) (hsame : s.sameOutsideButQuery t)
  | timer (hi : i = .apply ∨ ∃ ch, i = .chon ch ∨ i = .choff ch) (hsame : s.sameAround t)

/-- A write of the engine's registers is no reach outside it (R38). -/
theorem State.sameOutside_setEng (s : State c) (e : Engine c) : s.sameOutside { s with eng := e } :=
  ⟨rfl, rfl, rfl, rfl, rfl⟩

/-- CHON and CHOFF are commands that reach the timer (R90, R91). -/
theorem chon_or_choff_of_switches {ch : Channel c} {on : Bool} (hi : i.Switches ch on) :
    i = .apply ∨ ∃ n, i = .chon n ∨ i = .choff n := by
  obtain ⟨n, -, ⟨hchon, -⟩ | ⟨hchoff, -⟩⟩ := hi
  · exact .inr ⟨n, .inl hchon⟩
  · exact .inr ⟨n, .inr hchoff⟩

/-- The effect of a command has its reach. -/
theorem Effect.reach (h : Effect s i code u) : Reach s i u := by
  cases h with
  | illFormed hi =>
    obtain ⟨hcpre, -, -⟩ := ne_of_illFormed hi
    exact .engine hcpre (s.sameOutside_setEng _)
  | stored hi => exact .engine nofun (s.sameOutside_setEng _)
  | prescaler hd => exact .clock rfl ⟨rfl, rfl, rfl, rfl, rfl⟩
  | noPrescaler hd => exact .clock rfl ⟨rfl, rfl, rfl, rfl, rfl⟩
  | period hd hduty => exact .engine nofun (s.sameOutside_setEng _)
  | noPeriod hd => exact .engine nofun (s.sameOutside_setEng _)
  | applyNotReady hflags => exact .engine nofun (s.sameOutside_setEng _)
  | applyFaulted hpscv hcfgv hops => exact .timer (.inl rfl) (runOps_sameAround _ s)
  | applied hpscv hcfgv hops => exact .timer (.inl rfl) (runOps_sameAround _ s)
  | switchNotReady hi hconf =>
    obtain ⟨hcpre, -, -⟩ := ne_of_switches hi
    exact .engine hcpre (s.sameOutside_setEng _)
  | switchFaulted hi hconf hops => exact .timer (chon_or_choff_of_switches hi) (runOps_sameAround _ s)
  | switched hi hconf hops => exact .timer (chon_or_choff_of_switches hi) (runOps_sameAround _ s)

/-- The end of a command, a write of CODE and a response, reaches nothing more (R10). -/
theorem Runs.reach (h : Runs s i code rdata t) : Reach s i t := by
  cases h with
  | read hi hread => exact .engine (by simp [hi]) ⟨rfl, rfl, rfl, rfl, rfl⟩
  | ends heffect =>
    cases heffect.reach with
    | engine hi hsame => exact .engine hi hsame
    | clock hi hsame => exact .clock hi hsame
    | timer hi hsame => exact .timer hi hsame

/-- The next state of a command is that of a run to its end. -/
theorem exec_next_runs {i : Instr} {s t : State} (h : exec i s = .next t) : ∃ code rdata, Runs s i code rdata t := by
  obtain ⟨code, rdata, t', hruns, ht'⟩ := exec_runs i s
  obtain rfl : t' = t := Host.Outcome.next.inj (ht'.symm.trans h)
  exact ⟨code, rdata, hruns⟩

/-! ### The faults a command can meet -/

/-- The operations of an APPLY that is not made while configured begin with the enabling of the clock (R86). -/
theorem conf_or_applyOps_enableClock_first (e : Engine c) :
    e.conf = true ∨ (applyOps e).head? = some .enableClock := by
  cases hfull : e.fullPath with
  | true => exact .inr (by simp [applyOps, hfull, sharedOps])
  | false =>
    obtain ⟨hconf, -, -⟩ := Engine.fullPath_eq_false.mp hfull
    exact .inl hconf

/-- A command reports a fault of operations only that it issues while configured or that begin with the enabling of the
clock (R86, R90, R91, R98). -/
theorem Effect.ops_fault (h : Effect s i .hardwareApplyError u) :
    ∃ ops, (runOps ops s).1 = .fault ∧ (s.eng.conf = true ∨ ops.head? = some .enableClock) := by
  cases h with
  | noPrescaler hd => simp at hd
  | noPeriod hd => simp at hd
  | applyFaulted hpscv hcfgv hops => exact ⟨_, hops, conf_or_applyOps_enableClock_first s.eng⟩
  | switchFaulted hi hconf hops => exact ⟨_, hops, .inl hconf⟩

/-- A clock-gated peripheral answers `ok` to operations issued while configured, because the applied record says that
its clock is enabled, and to operations that enable it first (R28, R42). -/
theorem runOps_ok_of_clockGated {ops : List (PeriphOp c)} (hs : s.recordHolds) (hfaults : s.env.faults = .clockGated)
    (h : s.eng.conf = true ∨ ops.head? = some .enableClock) : (runOps ops s).1 = .ok := by
  refine runOps_okFor ops s ?_
  simp only [State.okFor, hfaults]
  exact h.imp_left fun hconf => (State.recordHolds_iff.mp hs hconf).clkEn

/-- Under a clock-gated peripheral no command reports a fault (R42). -/
theorem Runs.ne_hardwareApplyError (h : Runs s i code rdata t) (hs : s.recordHolds)
    (hfaults : s.env.faults = .clockGated) : code ≠ .hardwareApplyError := by
  rintro rfl
  cases h with
  | ends heffect =>
    obtain ⟨ops, hfault, hops⟩ := heffect.ops_fault
    rw [runOps_ok_of_clockGated hs hfaults hops] at hfault
    cases hfault

/-- The code of the one response is determined by the two states (R56). -/
theorem State.responded_code_inj (h : s.responded t code rdata) (h' : s.responded t code' rdata') : code = code' := by
  have hresponse : [Response.mk code rdata] = [⟨code', rdata'⟩] := List.append_cancel_left (h.symm.trans h')
  cases hresponse
  rfl

end Sys2Proof.Machine

namespace Sys2Proof

open Machine

/-- Settles O38: a command issues operations only while the applied record vouches for the clock, or enables the clock
first. -/
theorem clockGatedPeripheralNeverFaults : Obligations.ClockGatedPeripheralNeverFaults := by
  intro i s t hs hfaults hexec r hresponded
  obtain ⟨code, rdata, hruns⟩ := exec_next_runs hexec
  exact hruns.ne_hardwareApplyError hs hfaults (State.responded_code_inj hruns.responded hresponded)

/-- Settles O40: by cases on the reach of the command. -/
theorem commandsReachOnlyTheirOwnSpace : Obligations.CommandsReachOnlyTheirOwnSpace := by
  intro i s t hexec
  obtain ⟨code, rdata, hruns⟩ := exec_next_runs hexec
  cases hruns.reach with
  | engine hi hsame =>
    obtain ⟨hperiph, htrace, henv, hinputs, hreset⟩ := hsame
    simp [hi, hperiph, htrace, henv, hinputs, hreset]
  | clock hi hsame =>
    obtain ⟨hperiph, htrace, hinputs, hreset, henv⟩ := hsame
    simp [hi, hperiph, htrace, henv, hinputs, hreset]
  | timer hi hsame =>
    obtain ⟨hcntEn, -, hqueries, hinputs, hreset⟩ := hsame
    refine ⟨?_, hinputs, hreset, hcntEn, fun hne => ?_⟩
    · obtain rfl | ⟨ch, rfl | rfl⟩ := hi <;> simp [hqueries]
    · obtain hi | ⟨ch, hi⟩ := hi
      · exact absurd hi (hne 0).1
      · obtain ⟨-, hchon, hchoff⟩ := hne ch
        exact (hi.elim hchon hchoff).elim

end Sys2Proof

/-! PROOFS. The decoder and the encoder: the fields of a word, the legal words and the illegal ones (30_encoding.md
R57 to R66). -/

namespace Sys2Proof

variable {c : Config} {cmd wdata : Word} {i : Instr}

/-! ### The fields of a command word -/

/-- The fields of a word as numbers, as the case list of R63 has them (R57). -/
theorem opcodeField_toNat (cmd : Word) : (opcodeField cmd).toNat = cmd.toNat / 2 ^ 24 := by
  rw [opcodeField, BitVec.extractLsb'_toNat, Nat.shiftRight_eq_div_pow]
  omega

theorem selField_toNat (cmd : Word) : (selField cmd).toNat = cmd.toNat / 2 ^ 16 % 256 := by
  rw [selField, BitVec.extractLsb'_toNat, Nat.shiftRight_eq_div_pow]

theorem zeroField_toNat (cmd : Word) : (zeroField cmd).toNat = cmd.toNat % 2 ^ 16 := by
  rw [zeroField, BitVec.extractLsb'_toNat, Nat.shiftRight_zero]

/-- The encoder's word is the one with the command's two fields and zero below them (R57). -/
theorem commandWord_eq_iff {op sel : BitVec 8} :
    commandWord op sel = cmd ↔ zeroField cmd = 0#16 ∧ opcodeField cmd = op ∧ selField cmd = sel := by
  constructor
  · rintro rfl
    simp
  · rintro ⟨hzero, rfl, rfl⟩
    exact (word_of_fields cmd hzero).symm

theorem commandWord_eq_iff_toNat {op sel : BitVec 8} :
    commandWord op sel = cmd ↔
      cmd.toNat % 2 ^ 16 = 0 ∧ cmd.toNat / 2 ^ 24 = op.toNat ∧ sel.toNat = cmd.toNat / 2 ^ 16 % 256 := by
  rw [commandWord_eq_iff, ← zeroField_toNat, ← opcodeField_toNat, ← selField_toNat]
  simp only [BitVec.toNat_eq, BitVec.toNat_zero, eq_comm]

/-- A channel number fits the selector (R60). -/
@[simp] theorem channelSel_toNat (ch : ChannelNumber) : (BitVec.ofNat 8 ch.val).toNat = ch.val := by
  rw [BitVec.toNat_ofNat]
  omega

/-- The opcode of a command (R62). -/
def Instr.opcode : Instr → BitVec 8
  | .wr _ _ => 0x01
  | .rd _ => 0x02
  | .cpre => 0x10
  | .cpac => 0x11
  | .apply => 0x20
  | .chon _ => 0x21
  | .choff _ => 0x22

/-- The selector of a command (R58 to R60). -/
def Instr.sel : Instr → BitVec 8
  | .wr reg _ | .rd reg => reg.number
  | .cpre | .cpac | .apply => 0
  | .chon ch | .choff ch => BitVec.ofNat 8 ch.val

/-- The encoder's word is built from the command's two fields (R57, R68). -/
theorem encode_fst (i : Instr) : (encode i).1 = commandWord i.opcode i.sel := by cases i <;> rfl

/-! ### Formats N and C -/

/-- A Format N word is legal exactly if it has no selector (R58). -/
theorem formatN_eq_ok_iff {j : Instr} : formatN cmd j = .ok i ↔ selField cmd = 0#8 ∧ i = j := by
  unfold formatN
  split <;> simp_all [eq_comm]

/-- A Format C word is legal exactly if its selector is a channel of the configuration (R60). -/
theorem formatC_eq_ok_iff {mk : ChannelNumber → Instr} :
    formatC cmd mk c = .ok i ↔
      ∃ ch : ChannelNumber, selField cmd = BitVec.ofNat 8 ch.val ∧ ch.val < c.N ∧ i = mk ch := by
  have hsel (ch : ChannelNumber) :
      channelAt 0 (selField cmd).toNat c = some ch ↔ selField cmd = BitVec.ofNat 8 ch.val ∧ ch.val < c.N := by
    rw [channelAt_eq, BitVec.toNat_eq, channelSel_toNat, Nat.zero_add]
  have hformat : formatC cmd mk c = .ok i ↔ ∃ ch, channelAt 0 (selField cmd).toNat c = some ch ∧ i = mk ch := by
    unfold formatC
    cases channelAt 0 (selField cmd).toNat c <;> simp [eq_comm]
  simp only [hformat, hsel, and_assoc]

/-! ### The legal words -/

/-- Each well-formed command's word decodes to it, with the transaction's data word for WR (R63, R68). -/
theorem decode_encode (hi : i.wellFormed c = true) (hwdata : ∀ reg v, i = .wr reg v → v = wdata) :
    decode (encode i).1 wdata c = .ok i := by
  cases i with
  | wr reg v =>
    obtain rfl := hwdata reg v rfl
    obtain ⟨hpresent, hwritable⟩ := Bool.and_eq_true_iff.mp hi
    simp [decode, encode, Reg.ofNumber_number reg hpresent, hwritable]
  | rd reg => simp [decode, encode, Reg.ofNumber_number reg hi]
  | chon ch => simp [decode, encode, formatC_eq_ok_iff, of_decide_eq_true hi]
  | choff ch => simp [decode, encode, formatC_eq_ok_iff, of_decide_eq_true hi]
  | _ => simp [decode, encode, formatN]

/-- A legal word is the encoder's, of a well-formed command (R63, R65). -/
theorem encode_of_decode (h : decode cmd wdata c = .ok i) :
    i.wellFormed c = true ∧ (encode i).1 = cmd ∧ ∀ reg v, i = .wr reg v → v = wdata := by
  simp only [decode] at h
  split at h
  · cases h
  · next hzero =>
    rw [not_not] at hzero
    have hword {op sel : BitVec 8} (hop : (opcodeField cmd).toNat = op.toNat) (hsel : selField cmd = sel) :
        commandWord op sel = cmd := commandWord_eq_iff.mpr ⟨hzero, BitVec.eq_of_toNat_eq hop, hsel⟩
    split at h
    case h_1 hop =>
      split at h
      · cases h
      · next reg hreg =>
        obtain ⟨hnumber, hpresent⟩ := Reg.of_ofNumber hreg
        split at h
        · next hwritable =>
          cases h
          refine ⟨Bool.and_eq_true_iff.mpr ⟨hpresent, hwritable⟩, hword hop hnumber.symm, ?_⟩
          rintro _ _ ⟨⟩
          rfl
        · cases h
    case h_2 hop =>
      split at h
      · cases h
      · next reg hreg =>
        obtain ⟨hnumber, hpresent⟩ := Reg.of_ofNumber hreg
        cases h
        exact ⟨hpresent, hword hop hnumber.symm, nofun⟩
    case h_3 hop | h_4 hop | h_5 hop =>
      obtain ⟨hsel, rfl⟩ := formatN_eq_ok_iff.mp h
      exact ⟨rfl, hword hop hsel, nofun⟩
    case h_6 hop | h_7 hop =>
      obtain ⟨ch, hsel, hch, rfl⟩ := formatC_eq_ok_iff.mp h
      exact ⟨decide_eq_true hch, hword hop hsel, nofun⟩
    case h_8 => cases h

/-- The legal words are the encoder's words of the well-formed commands, and WR carries the data word (R57, R63). -/
theorem decode_eq_ok_iff :
    decode cmd wdata c = .ok i ↔
      i.wellFormed c = true ∧ (encode i).1 = cmd ∧ ∀ reg v, i = .wr reg v → v = wdata := by
  refine ⟨encode_of_decode, ?_⟩
  rintro ⟨hi, rfl, hwdata⟩
  exact decode_encode hi hwdata

/-- The data word takes no part in decoding a word that is not a WR (R67). -/
theorem decode_wdata (wdata wdata' : Word) (hop : cmd.toNat / 2 ^ 24 ≠ 0x01) :
    decode cmd wdata c = decode cmd wdata' c := by
  rw [← opcodeField_toNat] at hop
  unfold decode
  split
  · rfl
  · split
    · exact absurd ‹_› hop
    all_goals rfl

/-- Settles O1: the data word of the encoder's transaction is the one WR carries. -/
theorem decodeOfEncodeIsTheCommand : Obligations.DecodeOfEncodeIsTheCommand := by
  intro c i hi
  refine decode_encode hi ?_
  rintro reg v rfl
  rfl

/-- Settles O2: by the decoder's cases. -/
theorem legalWordsAreTheEncodersWords : Obligations.LegalWordsAreTheEncodersWords :=
  fun _ _ _ _ => encode_of_decode

/-- Settles O3: a legal word is the encoder's, so its three fields are those of its command. -/
theorem decodeFollowsTheCaseList : Obligations.DecodeFollowsTheCaseList := by
  intro c cmd wdata i
  constructor
  · intro h
    obtain ⟨hi, hword, hwdata⟩ := encode_of_decode h
    rw [encode_fst, commandWord_eq_iff_toNat] at hword
    obtain ⟨hzero, hop, hsel⟩ := hword
    refine ⟨hzero, ?_⟩
    cases i with
    | wr reg v =>
      obtain ⟨hpresent, hwritable⟩ := Bool.and_eq_true_iff.mp hi
      exact .inl ⟨hop, reg, hsel, hpresent, hwritable, by rw [hwdata reg v rfl]⟩
    | rd reg => exact .inr (.inl ⟨hop, reg, hsel, hi, rfl⟩)
    | cpre => exact .inr (.inr (.inl ⟨hop, hsel.symm, rfl⟩))
    | cpac => exact .inr (.inr (.inr (.inl ⟨hop, hsel.symm, rfl⟩)))
    | apply => exact .inr (.inr (.inr (.inr (.inl ⟨hop, hsel.symm, rfl⟩))))
    | chon ch =>
      have hch := (channelSel_toNat ch).symm.trans hsel
      exact .inr (.inr (.inr (.inr (.inr (.inl ⟨hop, ch, hch, of_decide_eq_true hi, rfl⟩)))))
    | choff ch =>
      have hch := (channelSel_toNat ch).symm.trans hsel
      exact .inr (.inr (.inr (.inr (.inr (.inr ⟨hop, ch, hch, of_decide_eq_true hi, rfl⟩)))))
  · rintro ⟨hzero, hcase⟩
    rw [decode_eq_ok_iff, encode_fst, commandWord_eq_iff_toNat]
    obtain ⟨hop, reg, hsel, hpresent, hwritable, rfl⟩ | ⟨hop, reg, hsel, hpresent, rfl⟩ | ⟨hop, hsel, rfl⟩ |
      ⟨hop, hsel, rfl⟩ | ⟨hop, hsel, rfl⟩ | ⟨hop, ch, hsel, hch, rfl⟩ | ⟨hop, ch, hsel, hch, rfl⟩ := hcase
    · refine ⟨Bool.and_eq_true_iff.mpr ⟨hpresent, hwritable⟩, ⟨hzero, hop, hsel⟩, ?_⟩
      rintro _ _ ⟨⟩
      rfl
    · exact ⟨hpresent, ⟨hzero, hop, hsel⟩, nofun⟩
    · exact ⟨rfl, ⟨hzero, hop, hsel.symm⟩, nofun⟩
    · exact ⟨rfl, ⟨hzero, hop, hsel.symm⟩, nofun⟩
    · exact ⟨rfl, ⟨hzero, hop, hsel.symm⟩, nofun⟩
    · exact ⟨decide_eq_true hch, ⟨hzero, hop, (channelSel_toNat ch).trans hsel⟩, nofun⟩
    · exact ⟨decide_eq_true hch, ⟨hzero, hop, (channelSel_toNat ch).trans hsel⟩, nofun⟩

/-! ### The illegal words of this hardware -/

/-- The registers of this hardware (R14). -/
def presentRegs : List Reg :=
  [.status, .param, .tgtf, .cntf, .outf, .chen, .psc, .arr, .prem, .arem, .clks, .apsc, .aarr, .duty 0, .duty 1,
    .duty 2, .duty 3, .cmp 0, .cmp 1, .cmp 2, .cmp 3]

theorem mem_presentRegs {reg : Reg} : reg ∈ presentRegs ↔ reg.present = true := by
  cases reg with
  | duty n => revert n; decide
  | cmp n => revert n; decide
  | _ => decide

/-- The numbers that RD takes (R59, R64). -/
theorem exists_present_iff {n : Nat} :
    (∃ reg : Reg, reg.number.toNat = n ∧ reg.present = true) ↔
      n ∈ [0x00, 0x01, 0x02, 0x03, 0x04, 0x05, 0x06, 0x07, 0x08, 0x09, 0x0A, 0x0B, 0x0C, 0x20, 0x21, 0x22, 0x23,
        0x30, 0x31, 0x32, 0x33] := by
  have hnumbers : presentRegs.map (·.number.toNat) =
      [0x00, 0x01, 0x02, 0x03, 0x04, 0x05, 0x06, 0x07, 0x08, 0x09, 0x0A, 0x0B, 0x0C, 0x20, 0x21, 0x22, 0x23,
        0x30, 0x31, 0x32, 0x33] := by decide
  simp only [← hnumbers, List.mem_map, mem_presentRegs, and_comm]

/-- The numbers that WR takes (R64, R72). -/
theorem exists_writable_iff {n : Nat} :
    (∃ reg : Reg, reg.number.toNat = n ∧ reg.present = true ∧ reg.writable = true) ↔
      n ∈ [0x02, 0x03, 0x04, 0x05, 0x20, 0x21, 0x22, 0x23] := by
  have hnumbers : (presentRegs.filter Reg.writable).map (·.number.toNat) =
      [0x02, 0x03, 0x04, 0x05, 0x20, 0x21, 0x22, 0x23] := by decide
  simp only [← hnumbers, List.mem_map, List.mem_filter, mem_presentRegs, and_comm]

/-- The numbers of the channels (R60). -/
theorem exists_channel_iff {n : Nat} :
    (∃ ch : ChannelNumber, ch.val = n ∧ ch.val < c.N) ↔ n < c.N := by
  have hN := c.channels_le
  constructor
  · rintro ⟨ch, rfl, hch⟩
    exact hch
  · intro hn
    exact ⟨⟨n, by omega⟩, rfl, hn⟩

/-- A word is illegal exactly if it decodes to no command (R63). -/
theorem exists_error_iff : (∃ why, decode cmd wdata c = .error why) ↔ ¬ ∃ i, decode cmd wdata c = .ok i := by
  cases decode cmd wdata c <;> simp

/-- The legal words of this hardware (R63). -/
theorem exists_decode_iff : (∃ i, decode cmd wdata = .ok i) ↔
    cmd.toNat % 2 ^ 16 = 0 ∧
      ((cmd.toNat / 2 ^ 24 = 0x01 ∧ cmd.toNat / 2 ^ 16 % 256 ∈ [0x02, 0x03, 0x04, 0x05, 0x20, 0x21, 0x22, 0x23]) ∨
       (cmd.toNat / 2 ^ 24 = 0x02 ∧
          cmd.toNat / 2 ^ 16 % 256 ∈ [0x00, 0x01, 0x02, 0x03, 0x04, 0x05, 0x06, 0x07, 0x08, 0x09, 0x0A, 0x0B, 0x0C,
            0x20, 0x21, 0x22, 0x23, 0x30, 0x31, 0x32, 0x33]) ∨
       (cmd.toNat / 2 ^ 24 ∈ [0x10, 0x11, 0x20] ∧ cmd.toNat / 2 ^ 16 % 256 = 0) ∨
       (cmd.toNat / 2 ^ 24 ∈ [0x21, 0x22] ∧ cmd.toNat / 2 ^ 16 % 256 < Config.hardware.N)) := by
  rw [← exists_writable_iff, ← exists_present_iff, ← exists_channel_iff]
  simp only [decodeFollowsTheCaseList _ _ _ _]
  simp [exists_or, or_and_right, or_assoc]

/-- Settles O6: each word written out is the encoder's word of its command. -/
theorem writtenOutWordsDecode : Obligations.WrittenOutWordsDecode :=
  have hdecode := decodeOfEncodeIsTheCommand .hardware
  ⟨hdecode (.wr .tgtf 2000) rfl, hdecode (.wr (.duty 3) 0x10000) rfl, hdecode (.rd (.cmp 2)) rfl,
    hdecode .cpre rfl, hdecode .cpac rfl, hdecode .apply rfl, hdecode (.chon 3) rfl, hdecode (.choff 2) rfl⟩

end Sys2Proof

/-! PROOFS. A transaction at the port (30_encoding.md R56, R63, R64, R67). -/

namespace Sys2Proof.Machine

variable {c : Config} {cmd wdata : Word} {s t : State}

/-- A write of CODE leaves every other register, and the bits of STATUS above CODE (R15). -/
theorem Engine.sameBut_setCode (e : Engine c) (code : Code) : Engine.sameBut [.status] e (e.setCode code) := by
  intro reg hreg
  cases reg with
  | status => simp at hreg
  | _ => rfl

theorem Engine.sameStatusBut_setCode (e : Engine c) (code : Code) :
    Engine.sameStatusBut [] e (e.setCode code) := by
  intro j hj _
  rw [Engine.setCode_bit, if_neg (by omega)]

/-- A raise writes CODE, answers, and does nothing else (R99). -/
theorem raise_frame (code : Code) (s : State c) :
    ∃ t, raise code s = .next t ∧ t.eng.code = code.num ∧ Engine.sameStatusBut [] s.eng t.eng ∧
      Engine.sameBut [.status] s.eng t.eng ∧ s.sameOutside t ∧ s.responded t code 0 :=
  ⟨_, rfl, Engine.setCode_code _ _, Engine.sameStatusBut_setCode _ _, Engine.sameBut_setCode _ _,
    ⟨rfl, rfl, rfl, rfl, rfl⟩, rfl⟩

/-- What a transaction does is its command's meaning, or the raise of the verdict illegal (R63, R64). -/
theorem runCommand_of_legal {i : Instr} (h : decode cmd wdata = .ok i) : runCommand cmd wdata s = exec i s := by
  rw [runCommand, h]

theorem runCommand_of_illegal {why : Illegal} (h : decode cmd wdata = .error why) :
    runCommand cmd wdata s = raise .illegalCommand s := by
  rw [runCommand, h]

/-- A transaction that is the next input is used up by the step, if reset is not asserted (R53, R119). -/
theorem step_command {rest : List Input} (hinputs : s.inputs = .command cmd wdata :: rest)
    (hreset : s.inReset = false) : step s = runCommand cmd wdata { s with inputs := rest } := by
  rw [step, nextInput, hinputs]
  exact if_neg (by simp [hreset])

end Sys2Proof.Machine

namespace Sys2Proof

open Machine

/-- Settles O4: opcode by opcode, R64 lists the words that are no command's; the engine raises on them. -/
theorem illegalWordsAreExactlyThese : Obligations.IllegalWordsAreExactlyThese := by
  intro cmd wdata
  constructor
  · rw [exists_error_iff, exists_decode_iff]
    generalize cmd.toNat / 2 ^ 24 = op
    by_cases hop : op ∈ [0x01, 0x02, 0x10, 0x11, 0x20, 0x21, 0x22]
    · simp only [List.mem_cons, List.not_mem_nil, or_false] at hop
      rcases hop with rfl | rfl | rfl | rfl | rfl | rfl | rfl <;> simp [imp_iff_not_or]
    · simp_all
  · rintro s ⟨why, hwhy⟩
    rw [runCommand_of_illegal hwhy]
    exact raise_frame .illegalCommand s

/-- Settles O7: only WR carries the data word, and a command that is no RD answers without read data. -/
theorem unusedPartsOfATransaction : Obligations.UnusedPartsOfATransaction := by
  refine ⟨fun cmd wdata wdata' s hop => ?_, fun cmd wdata s t hnext hrd => ?_⟩
  · rw [runCommand, runCommand, decode_wdata wdata wdata' hop]
  · cases hdecode : decode cmd wdata with
    | ok i =>
      rw [runCommand_of_legal hdecode] at hnext
      obtain ⟨code, rdata, hruns⟩ := exec_next_runs hnext
      obtain ⟨rfl, -⟩ := hruns.of_not_legal_rd fun reg _ hi => hrd reg (hi ▸ hdecode)
      exact ⟨code, hruns.responded⟩
    | error why =>
      rw [runCommand_of_illegal hdecode, raise_eq] at hnext
      cases hnext
      exact ⟨.illegalCommand, rfl⟩

/-- Settles O9: the step takes the transaction, and the word decodes. -/
theorem stepRunsTheDecodedCommand : Obligations.StepRunsTheDecodedCommand := by
  intro s cmd wdata rest i hinputs hreset hdecode
  rw [step_command hinputs hreset, runCommand_of_legal hdecode]

end Sys2Proof

/-! PROOFS. The opcode table and the listings (30_encoding.md R62, R68, R70, R71). -/

namespace Sys2Proof

/-! ### The opcode table -/

/-- The rows of the table of R62. -/
def opcodeTable : List OpcodeRow :=
  [.wr .status 0, .rd .status, .cpre, .cpac, .apply, .chon 0, .choff 0].map Instr.row

theorem row_mem_opcodeTable (i : Instr) : i.row ∈ opcodeTable := by
  cases i <;> simp [opcodeTable, Instr.row]

/-- A row compares the whole opcode, and no two rows have the same (R62). -/
theorem opcodeTable_mask : ∀ row ∈ opcodeTable, opcodeField row.mask = 0xFF#8 := by decide

theorem opcodeTable_injective : ∀ row ∈ opcodeTable, ∀ row' ∈ opcodeTable,
    opcodeField row.pattern = opcodeField row'.pattern → row = row' := by decide

/-- A row selects only words with its opcode (R62). -/
theorem opcodeField_of_selects {i : Instr} {cmd : Word} (h : i.row.selects cmd = true) :
    opcodeField cmd = opcodeField i.row.pattern := by
  have hpattern : cmd &&& i.row.mask = i.row.pattern := of_decide_eq_true h
  have hmask := opcodeTable_mask _ (row_mem_opcodeTable i)
  unfold opcodeField at hmask ⊢
  rw [← hpattern, BitVec.extractLsb'_and, hmask]
  exact (BitVec.and_allOnes).symm

/-- The row of a command selects the encoder's word (R62, R68). -/
theorem row_selects_encode (i : Instr) : i.row.selects (encode i).1 = true := by
  have hstatement : Laws.RowPattern.Statement i := by
    cases i with
    | wr reg wdata => exact Laws.RowPattern.wr reg wdata
    | rd reg => exact Laws.RowPattern.rd reg
    | cpre => exact Laws.RowPattern.cpre
    | cpac => exact Laws.RowPattern.cpac
    | apply => exact Laws.RowPattern.apply
    | chon ch => exact Laws.RowPattern.chon ch
    | choff ch => exact Laws.RowPattern.choff ch
  exact decide_eq_true hstatement

/-- Settles O5: rows that select one word have its opcode, so they are one row. -/
theorem oneTableRowSelectsALegalWord : Obligations.OneTableRowSelectsALegalWord := by
  intro c cmd wdata i hdecode
  obtain ⟨-, rfl, -⟩ := encode_of_decode hdecode
  have hi := row_selects_encode i
  refine ⟨hi, fun j hj => ?_⟩
  have hop := (opcodeField_of_selects hj).symm.trans (opcodeField_of_selects hi)
  rw [opcodeTable_injective _ (row_mem_opcodeTable j) _ (row_mem_opcodeTable i) hop]

/-! ### Listings -/

/-- The assembler puts the selector into the word of its mnemonic (R68). -/
theorem commandWord_or_sel (op sel : BitVec 8) :
    commandWord op 0 ||| (sel.setWidth 32 <<< 16) = commandWord op sel := by
  apply BitVec.eq_of_getLsbD_eq
  intro j hj
  simp only [commandWord, BitVec.getLsbD_or, BitVec.getLsbD_append, BitVec.getLsbD_shiftLeft, BitVec.getLsbD_setWidth]
  by_cases h16 : j < 16
  · simp [h16]
  · by_cases h24 : j < 24
    · simp [h16, hj, show j - 16 < 8 by omega, show j - 16 < 32 by omega]
    · simp [h16, show ¬ j - 16 < 8 by omega, BitVec.getLsbD_of_ge sel (j - 16) (by omega)]

/-- The percent literal is a legal duty, the nearest to its fraction of 1.0, a tie upward (R71). -/
theorem percent_nearest (c : Config) {k : Nat} (hk : k ≤ 100) :
    (percent k c).toNat ≤ c.dutyOne ∧ 100 * (percent k c).toNat ≤ k * c.dutyOne + 50 ∧
      k * c.dutyOne < 100 * (percent k c).toNat + 50 := by
  have hfraction : k * c.dutyOne ≤ 100 * c.dutyOne := Nat.mul_le_mul_right _ hk
  have hone : c.dutyOne ≤ 2 ^ 31 := Nat.pow_le_pow_right (by omega) c.frac_le
  have hpercent : (percent k c).toNat = (k * c.dutyOne + 50) / 100 := by
    rw [percent, BitVec.toNat_ofNat, Nat.mod_eq_of_lt (show (k * c.dutyOne + 50) / 100 < 2 ^ 32 by omega)]
  omega

/-- DUTYALL is a WR of each channel's duty (R70). -/
theorem assemble_dutyAll (c : Config) (v : Word) :
    (AsmLine.dutyAll v).assemble c =
      (List.finRange c.N).map fun i => encode (.wr (.duty (i.castLE c.channels_le)) v) :=
  List.map_congr_left fun _ _ => congrArg (·, v) (commandWord_or_sel 0x01 _)

/-- Settles O8: each line is the word of its mnemonic with the selector put in. -/
theorem listingsStandForTheEncodersWords : Obligations.ListingsStandForTheEncodersWords := by
  have hword (op sel : BitVec 8) (v : Word) :
      [(commandWord op 0 ||| (sel.setWidth 32 <<< 16), v)] = [(commandWord op sel, v)] := by
    rw [commandWord_or_sel]
  refine ⟨fun reg v => ⟨hword 0x01 _ _, hword 0x02 _ _⟩, rfl, rfl, rfl, fun ch => ⟨hword 0x21 _ _, hword 0x22 _ _⟩,
    assemble_dutyAll .hardware, fun _ => percent_nearest .hardware⟩

end Sys2Proof

/-! PROOFS. Register access: what WR stores, what RD answers, and the terms that are no command
(40_register_access.md R72, R73). -/

namespace Sys2Proof.Machine

variable {c : Config} {n : ChannelNumber} {ch : Channel c} {reg r : Reg} {s : State}

/-! ### Reading a register -/

/-- A channel's register reads as the channel's element (R14, R21). -/
theorem Engine.read_duty (e : Engine c) (hn : c.channel n = some ch) : e.read (.duty n) = some e.duty[ch] := by
  rw [Engine.read, hn]
  rfl

theorem Engine.read_cmp (e : Engine c) (hn : c.channel n = some ch) : e.read (.cmp n) = some e.cmp[ch] := by
  rw [Engine.read, hn]
  rfl

/-- The number that names a channel is the channel's index (R52). -/
theorem channel_eq_some_iff : c.channel n = some ch ↔ ch.val = n.val := by
  have hch := ch.isLt
  unfold Config.channel
  split
  · rw [Option.some.injEq, Fin.ext_iff, eq_comm]
  · simp only [reduceCtorEq, false_iff]
    omega

/-- Two numbers that name one channel are the same number (R52). -/
theorem channel_injective {m : ChannelNumber} (hm : c.channel m = some ch) (hn : c.channel n = some ch) : m = n :=
  Fin.ext ((channel_eq_some_iff.mp hm).symm.trans (channel_eq_some_iff.mp hn))

/-- A duty that is there has its channel (R14). -/
theorem exists_channel_of_present (hn : (Reg.duty n).present c = true) : ∃ ch, c.channel n = some ch :=
  ⟨_, channel_some (of_decide_eq_true hn)⟩

/-! ### The host's store -/

theorem Engine.hostWrite_duty (e : Engine c) (wdata : Word) (hn : c.channel n = some ch) :
    e.hostWrite wdata (.duty n) = { e with duty := e.duty.set ch.val wdata ch.isLt } := by
  rw [Engine.hostWrite, hn]

theorem Engine.hostWrite_duty_absent (e : Engine c) (wdata : Word) (hn : c.channel n = none) :
    e.hostWrite wdata (.duty n) = e := by
  rw [Engine.hostWrite, hn]

/-- The store is what the register then reads, CHEN apart (R72). -/
theorem Engine.read_hostWrite_same (e : Engine c) (wdata : Word) (hpresent : reg.present c = true)
    (hwritable : reg.writable = true) (hchen : reg ≠ .chen) : (e.hostWrite wdata reg).read reg = some wdata := by
  cases reg with
  | tgtf | cntf | outf => rfl
  | chen => exact absurd rfl hchen
  | duty n =>
    obtain ⟨ch, hn⟩ := exists_channel_of_present hpresent
    rw [e.hostWrite_duty wdata hn, Engine.read_duty _ hn]
    simp
  | _ => cases hwritable

/-- The store of one channel's duty leaves the duties of the others (R21). -/
theorem Engine.read_duty_hostWrite_duty (e : Engine c) (wdata : Word) {m : ChannelNumber} (hmn : m ≠ n) :
    (e.hostWrite wdata (.duty n)).read (.duty m) = e.read (.duty m) := by
  cases hn : c.channel n with
  | none => rw [e.hostWrite_duty_absent wdata hn]
  | some ch =>
    rw [e.hostWrite_duty wdata hn]
    cases hm : c.channel m with
    | none => simp [Engine.read, hm]
    | some ch' =>
      have hne : ch.val ≠ ch'.val := fun hval => hmn (channel_injective hm (Fin.ext hval ▸ hn))
      rw [Engine.read_duty _ hm, Engine.read_duty _ hm]
      exact congrArg some (Vector.getElem_set_ne ch.isLt ch'.isLt hne)

/-- The store leaves every other register (R72). -/
theorem Engine.sameBut_hostWrite (e : Engine c) (wdata : Word) (reg : Reg) :
    Engine.sameBut [reg] e (e.hostWrite wdata reg) := by
  intro r hr
  cases reg with
  | duty n =>
    cases r with
    | duty m => exact e.read_duty_hostWrite_duty wdata (by simpa using hr)
    | _ =>
      cases hn : c.channel n with
      | none => rw [e.hostWrite_duty_absent wdata hn]
      | some ch => rw [e.hostWrite_duty wdata hn]; rfl
  | tgtf | cntf | outf | chen => cases r <;> simp [Engine.read, Engine.hostWrite] at hr ⊢
  | _ => rfl

/-- Two writes in turn leave what both leave. -/
theorem Engine.sameBut_trans {l l' : List Reg} {e e' e'' : Engine c} (h : Engine.sameBut l e e')
    (h' : Engine.sameBut l' e' e'') : Engine.sameBut (l' ++ l) e e'' := by
  intro r hr
  rw [List.mem_append, not_or] at hr
  exact (h' r hr.1).trans (h r hr.2)

/-! ### WR, RD, and the terms that are no command -/

/-- A legal WR stores and ends OK (R72). -/
theorem exec_wr (wdata : Word) (s : State) (hpresent : reg.present = true) (hwritable : reg.writable = true) :
    exec (.wr reg wdata) s = completeOk { s with eng := s.eng.hostWrite wdata reg } :=
  if_pos (Bool.and_eq_true_iff.mpr ⟨hpresent, hwritable⟩)

/-- A legal RD answers what the register reads (R73). -/
theorem exec_rd {v : Word} (hread : s.eng.read reg = some v) : exec (.rd reg) s = completeRead v s := by
  rw [exec, execRd, hread]

/-- Each command's own test raises on a term that no legal word gives (R72, R73, R90, R91). -/
theorem exec_of_illFormed {i : Instr} (s : State) (hi : i.wellFormed = false) : exec i s = raise .illegalCommand s := by
  cases i with
  | wr reg wdata => exact if_neg (Bool.eq_false_iff.mp hi)
  | rd reg =>
    have hread : s.eng.read reg = none := by
      rw [← Option.not_isSome_iff_eq_none, Engine.read_isSome]
      exact Bool.eq_false_iff.mp hi
    rw [exec, execRd, hread]
  | chon n =>
    rw [exec, execChon, channel_none (Nat.not_lt.mp (of_decide_eq_false hi))]
  | choff n =>
    rw [exec, execChoff, channel_none (Nat.not_lt.mp (of_decide_eq_false hi))]
  | cpre | cpac | apply => cases hi

end Sys2Proof.Machine

namespace Sys2Proof

open Machine

/-- Settles O13: the store changes its register, and the end of the command CODE. -/
theorem wrStoresInTheRegister : Obligations.WrStoresInTheRegister := by
  intro s reg v hpresent hwritable
  have hframe := Engine.sameBut_setCode (s.eng.hostWrite v reg) .ok
  refine ⟨_, exec_wr v s hpresent hwritable, fun hchen => ?_, ?_,
    Engine.setCode_code (s.eng.hostWrite v reg) .ok, fun j hj hlisted => ?_,
    Engine.sameBut_trans (s.eng.sameBut_hostWrite v reg) hframe, ⟨rfl, rfl, rfl, rfl, rfl⟩, rfl⟩
  · have hstatus : reg ∉ [Reg.status] := by
      rw [List.mem_singleton]
      rintro rfl
      cases hwritable
    exact (hframe reg hstatus).trans (s.eng.read_hostWrite_same v hpresent hwritable hchen)
  · rintro rfl
    exact chenMask_toNat v
  · exact (Engine.sameStatusBut_setCode _ .ok j hj hlisted).trans (by rw [Engine.hostWrite_status])

/-- Settles O15: the command's own test raises, and a raise writes CODE only. -/
theorem illFormedCommandsAreIllegal : Obligations.IllFormedCommandsAreIllegal := by
  intro i s hi
  rw [exec_of_illFormed s hi]
  exact raise_frame .illegalCommand s

/-- Settles O14: the register's number selects it, so the decoder finds it read-only, as the command itself does. -/
theorem wrOfAReadOnlyRegisterIsIllegal : Obligations.WrOfAReadOnlyRegisterIsIllegal := by
  intro s reg v hpresent hwritable
  refine ⟨?_, illFormedCommandsAreIllegal (.wr reg v) s ?_⟩
  · simp [decode, Reg.ofNumber_number reg hpresent, hwritable]
  · rw [Instr.wellFormed, hwritable, Bool.and_false]

/-- Settles O16: a register that is there reads as its own field. -/
theorem rdAnswersWithTheRegister : Obligations.RdAnswersWithTheRegister := by
  intro s reg hpresent
  obtain ⟨v, hread⟩ := Option.isSome_iff_exists.mp ((s.eng.read_isSome reg).trans hpresent)
  have hvalue {r : Reg} {w : Word} (hr : s.eng.read r = some w) (hreg : reg = r) : v = w :=
    Option.some.inj (hread.symm.trans (hreg ▸ hr))
  exact ⟨_, v, exec_rd hread, rfl, rfl, s.sameOutside_setEng s.eng,
    hvalue rfl, hvalue (congrArg some paramWord_hardware), hvalue rfl, hvalue rfl, hvalue rfl, hvalue rfl, hvalue rfl,
    hvalue rfl, hvalue rfl, hvalue rfl, hvalue rfl, hvalue rfl, hvalue rfl,
    fun _ _ hn => hvalue (s.eng.read_duty (channel_eq_some_iff.mpr hn)),
    fun _ _ hn => hvalue (s.eng.read_cmp (channel_eq_some_iff.mpr hn))⟩

end Sys2Proof

/-! PROOFS. The laws of the arithmetic, and what CPRE and CPAC answer and leave (41_derivation.md R74 to R84). -/

namespace Sys2Proof.Machine

variable {c : Config} {s t : State c}

/-! ### The divider derived -/

section Derive

variable {num den : Nat}

/-- A zero operand, or a divisor above the number to divide, fails the input conditions (R100). -/
theorem derive_of_unmet (h : num = 0 ∨ den = 0 ∨ den > num) : derive c num den = .precondition :=
  if_pos (by omega)

/-- A quotient that is too large overflows (R80, R95, R96). -/
theorem derive_of_large (hden : 0 < den) (hle : den ≤ num) (hlarge : num / den - 1 > c.regMax) :
    derive c num den = .overflow := by
  rw [derive, if_neg (by omega), if_pos hlarge]

/-- A quotient that fits is derived, less one, with its remainder (R77, R79). -/
theorem derive_of_fits (hden : 0 < den) (hle : den ≤ num) (hfit : num / den - 1 ≤ c.regMax) :
    derive c num den = .value (num / den - 1) (num % den) := by
  rw [derive, if_neg (by omega), if_neg (Nat.not_lt.mpr hfit)]

end Derive

/-! ### The compare value -/

section Compare

variable {tie : RoundTie} {df per d v : Nat}

/-- With ties up the rounded quotient is within one half of the exact one (R78, R82). -/
theorem roundShift_up_nearest {x k : Nat} (hk : 1 ≤ k) :
    2 * (roundShift .up x k * 2 ^ k) ≤ 2 * x + 2 ^ k ∧ 2 * x ≤ 2 * (roundShift .up x k * 2 ^ k) + 2 ^ k := by
  have hhalf : 2 * 2 ^ (k - 1) = 2 ^ k := mul_pow_sub_one (Nat.ne_of_gt hk) 2
  have hdiv : roundShift .up x k * 2 ^ k + (x + 2 ^ (k - 1)) % 2 ^ k = x + 2 ^ (k - 1) := Nat.div_add_mod' _ _
  have hrem : (x + 2 ^ (k - 1)) % 2 ^ k < 2 ^ k := Nat.mod_lt _ (Nat.two_pow_pos k)
  omega

/-- Under either tie rule the rounded quotient is within one half of the exact one: a tie that goes down to the even
neighbour is one half away (R82, U4). -/
theorem roundShift_nearest (tie : RoundTie) {x k : Nat} (hk : 1 ≤ k) :
    2 * (roundShift tie x k * 2 ^ k) ≤ 2 * x + 2 ^ k ∧ 2 * x ≤ 2 * (roundShift tie x k * 2 ^ k) + 2 ^ k := by
  cases tie with
  | up => exact roundShift_up_nearest hk
  | toEven =>
    rw [roundShift]
    split
    · next htie =>
      obtain ⟨htie, -⟩ := htie
      have hhalf : 2 * 2 ^ (k - 1) = 2 ^ k := mul_pow_sub_one (Nat.ne_of_gt hk) 2
      have hdiv : x / 2 ^ k * 2 ^ k + x % 2 ^ k = x := Nat.div_add_mod' x (2 ^ k)
      omega
    · exact roundShift_up_nearest hk

/-- Where the product is a whole number, the compare value is that number (R78). -/
theorem compareWith_eq_of_exact (hdf : 1 ≤ df) (h : per * d = v * 2 ^ df) : compareWith tie df per d = v := by
  have hpos : 0 < 2 ^ df := Nat.two_pow_pos df
  obtain ⟨hup, hdown⟩ := roundShift_nearest tie (x := per * d) hdf
  rw [h] at hup hdown
  have hle : compareWith tie df per d < v + 1 :=
    Nat.lt_of_mul_lt_mul_right (a := 2 ^ df) (by rw [compareWith, h, Nat.succ_mul]; omega)
  have hge : v < compareWith tie df per d + 1 :=
    Nat.lt_of_mul_lt_mul_right (a := 2 ^ df) (by rw [compareWith, h, Nat.succ_mul]; omega)
  omega

/-- With ties up a larger period or duty gives no smaller compare value (R82). -/
theorem compareWith_up_mono {per' d' : Nat} (hper : per ≤ per') (hd : d ≤ d') :
    compareWith .up df per d ≤ compareWith .up df per' d' :=
  Nat.div_le_div_right (Nat.add_le_add_right (Nat.mul_le_mul hper hd) _)

/-- What CPAC derives for a channel keeps its value in the channel's register (R75, R80). -/
theorem compares_toNat {duty : Vector Word c.N} (i : Channel c) (hper : per ≤ c.regMax)
    (hduty : dutyLegal c duty[i] = true) : (compares c per duty)[i].toNat = compareValue c per duty[i].toNat := by
  have hle : compareValue c per duty[i].toNat ≤ per := compareWith_le c.frac_pos (of_decide_eq_true hduty)
  calc (compares c per duty)[i].toNat
      = compareValue c per duty[i].toNat % 2 ^ 32 := by simp [compares]
    _ = compareValue c per duty[i].toNat := Nat.mod_eq_of_lt ((hle.trans hper).trans_lt (regMax_lt c))

/-- A channel whose product is a whole number has that number in its register, as a word (R84). -/
theorem compares_eq_of_exact {duty : Vector Word c.N} (i : Channel c) (h : per * duty[i].toNat = v * 2 ^ c.DF) :
    (compares c per duty)[i] = BitVec.ofNat 32 v :=
  calc (compares c per duty)[i]
      = BitVec.ofNat 32 (compareValue c per duty[i].toNat) := by simp [compares]
    _ = BitVec.ofNat 32 v := congrArg _ (compareWith_eq_of_exact c.frac_pos h)

end Compare

/-! ### The two commands by the divider derived -/

/-- CPRE where a prescaler is derived (R74). -/
theorem execCpre_of_value {p r : Nat} (hd : derive c s.clockAnswer.toNat s.eng.tgtf.toNat = .value p r) :
    execCpre s = completeOk { s.queryClock with
      eng := { s.eng with
        clks := s.clockAnswer.setWidth 32
        psc := BitVec.ofNat 32 p
        prem := BitVec.ofNat 32 r }.setPscv true } := by
  simp only [execCpre, State.queryClock_eng, hd]

/-- CPRE where none is derived (R74, R99). -/
theorem execCpre_of_error {code : Code}
    (hd : derive c s.clockAnswer.toNat s.eng.tgtf.toNat = .precondition ∧ code = .preconditionViolated ∨
      derive c s.clockAnswer.toNat s.eng.tgtf.toNat = .overflow ∧ code = .prescalerOverflow) :
    execCpre s = raise code { s.queryClock with
      eng := { s.eng with clks := s.clockAnswer.setWidth 32 }.setPscv false } := by
  obtain ⟨hd, rfl⟩ | ⟨hd, rfl⟩ := hd
  · simp only [execCpre, State.queryClock_eng, hd]
  · simp only [execCpre, State.queryClock_eng, hd]

/-- CPAC where a period is derived and every duty is legal (R75). -/
theorem execCpac_of_value {per r : Nat} (hd : derive c s.eng.cntf.toNat s.eng.outf.toNat = .value per r)
    (hduty : ∀ i : Channel c, dutyLegal c s.eng.duty[i] = true) :
    execCpac s = completeOk { s with
      eng := { s.eng with
        cmp := compares c per s.eng.duty
        arr := BitVec.ofNat 32 per
        arem := BitVec.ofNat 32 r }.setCfgv true } := by
  simp only [execCpac, hd]
  exact if_pos hduty

/-- CPAC where no period is derived or a duty is not legal (R75, R99). -/
theorem execCpac_of_error {code : Code}
    (hd : derive c s.eng.cntf.toNat s.eng.outf.toNat = .precondition ∧ code = .preconditionViolated ∨
      derive c s.eng.cntf.toNat s.eng.outf.toNat = .overflow ∧ code = .periodOverflow ∨
      (∃ per r, derive c s.eng.cntf.toNat s.eng.outf.toNat = .value per r) ∧
        (∃ i : Channel c, dutyLegal c s.eng.duty[i] = false) ∧ code = .invalidDutyCycle) :
    execCpac s = raise code { s with eng := s.eng.setCfgv false } := by
  obtain ⟨hd, rfl⟩ | ⟨hd, rfl⟩ | ⟨⟨per, r, hd⟩, ⟨i, hi⟩, rfl⟩ := hd
  · simp only [execCpac, hd]
  · simp only [execCpac, hd]
  · simp only [execCpac, hd]
    exact if_neg fun hduty => Bool.eq_false_iff.mp hi (hduty i)

/-! ### The frame of the two commands -/

/-- Writes of one flag and of CODE leave the other bits of STATUS, and PSCV and CFGV are such flags (R15). -/
theorem Engine.sameStatusBut_setFlag (e : Engine c) {k : Nat} (hk : k < 32) (b : Bool) (code : Code) :
    Engine.sameStatusBut [k] e (Engine.setCode { e with status := setBit e.status k b } code) := by
  intro j hj hlisted
  rw [Engine.setCode_bit, if_neg (by omega), setBit_getLsbD _ _ _ _ hk, if_neg (by simpa using hlisted)]

theorem Engine.sameStatusBut_setPscv (e : Engine c) (b : Bool) (code : Code) :
    Engine.sameStatusBut [4] e ((e.setPscv b).setCode code) := e.sameStatusBut_setFlag (by omega) b code

theorem Engine.sameStatusBut_setCfgv (e : Engine c) (b : Bool) (code : Code) :
    Engine.sameStatusBut [5] e ((e.setCfgv b).setCode code) := e.sameStatusBut_setFlag (by omega) b code

/-- A write of STATUS leaves every other register. -/
theorem Engine.sameBut_setStatus (e : Engine c) (status : Word) :
    Engine.sameBut [.status] e { e with status := status } := by
  intro reg hreg
  cases reg with
  | status => simp at hreg
  | _ => rfl

/-- Writes of STATUS and CLKS leave every other register. -/
theorem Engine.sameBut_setClks (e : Engine c) (status clks : Word) :
    Engine.sameBut [.status, .clks] e { e with status := status, clks := clks } := by
  intro reg hreg
  cases reg with
  | status | clks => simp at hreg
  | _ => rfl

/-- Writes of STATUS and of the registers of CPRE leave every other register. -/
theorem Engine.sameBut_setPrescaler (e : Engine c) (status psc prem clks : Word) :
    Engine.sameBut [.status, .psc, .prem, .clks] e
      { e with status := status, psc := psc, prem := prem, clks := clks } := by
  intro reg hreg
  cases reg with
  | status | psc | prem | clks => simp at hreg
  | _ => rfl

/-- Writes of STATUS and of the registers of CPAC leave every other register. -/
theorem Engine.read_setPeriod (e : Engine c) (status arr arem : Word) (cmp : Vector Word c.N) {reg : Reg}
    (hreg : reg ∉ [Reg.status, .arr, .arem]) (hcmp : ∀ n, reg ≠ .cmp n) :
    Engine.read { e with status := status, arr := arr, arem := arem, cmp := cmp } reg = e.read reg := by
  cases reg with
  | status | arr | arem => simp at hreg
  | cmp n => exact absurd rfl (hcmp n)
  | _ => rfl

/-! ### The remainders -/

/-- After a CPRE that sets PSCV, PREM is below the target (R81). -/
theorem execCpre_prem_lt (h : execCpre s = .next t) (hv : t.eng.pscv = true) :
    t.eng.prem.toNat < t.eng.tgtf.toNat := by
  obtain ⟨p, r, hd, rfl⟩ | ⟨code, -, rfl⟩ := execCpre_cases h
  · obtain ⟨-, hr⟩ := derive_value_toNat hd
    obtain ⟨-, hlt, -⟩ := derive_eq_value_iff.mp hd
    exact hr.trans_lt hlt
  · simp at hv

/-- After a CPAC that sets CFGV, AREM is below the output frequency (R81). -/
theorem execCpac_arem_lt (h : execCpac s = .next t) (hv : t.eng.cfgv = true) :
    t.eng.arem.toNat < t.eng.outf.toNat := by
  obtain ⟨per, r, hd, -, rfl⟩ | ⟨code, -, rfl⟩ := execCpac_cases h
  · obtain ⟨-, hr⟩ := derive_value_toNat hd
    obtain ⟨-, hlt, -⟩ := derive_eq_value_iff.mp hd
    exact hr.trans_lt hlt
  · simp at hv

/-! ### Purity -/

variable {s' t' : State c}

/-- What CPRE answers and derives is decided by the divider of the clock and the target (R76). -/
theorem execCpre_pure (h : execCpre s = .next t) (h' : execCpre s' = .next t')
    (hclock : s.clockAnswer = s'.clockAnswer) (htgtf : s.eng.tgtf = s'.eng.tgtf) :
    t.eng.code = t'.eng.code ∧ t.eng.pscv = t'.eng.pscv ∧
      (t.eng.pscv = true → t.eng.psc = t'.eng.psc ∧ t.eng.prem = t'.eng.prem) := by
  obtain ⟨p, r, hd, rfl⟩ | ⟨code, hd, rfl⟩ := execCpre_cases h
  · rw [hclock, htgtf] at hd
    cases (execCpre_of_value hd).symm.trans h'
    simp
  · rw [hclock, htgtf] at hd
    cases (execCpre_of_error hd).symm.trans h'
    simp

/-- What CPAC answers and derives is decided by the divider of its two frequencies, and by the duties (R76). -/
theorem execCpac_pure (h : execCpac s = .next t) (h' : execCpac s' = .next t')
    (hcntf : s.eng.cntf = s'.eng.cntf) (houtf : s.eng.outf = s'.eng.outf) (hdutyEq : s.eng.duty = s'.eng.duty) :
    t.eng.code = t'.eng.code ∧ t.eng.cfgv = t'.eng.cfgv ∧
      (t.eng.cfgv = true → t.eng.arr = t'.eng.arr ∧ t.eng.arem = t'.eng.arem ∧ t.eng.cmp = t'.eng.cmp) := by
  obtain ⟨per, r, hd, hduty, rfl⟩ | ⟨code, hd, rfl⟩ := execCpac_cases h
  · rw [hcntf, houtf] at hd
    rw [hdutyEq] at hduty
    cases (execCpac_of_value hd hduty).symm.trans h'
    simp [hdutyEq]
  · rw [hcntf, houtf, hdutyEq] at hd
    cases (execCpac_of_error hd).symm.trans h'
    simp

end Sys2Proof.Machine

namespace Sys2Proof

open Machine

/-- Settles O24: rounding is within one half whichever way ties go, and the sum that is divided grows with both. -/
theorem compareValueIsNearestAndBounded : Obligations.CompareValueIsNearestAndBounded :=
  ⟨fun c tie _ _ hd => ⟨compareWith_le c.frac_pos hd, roundShift_nearest tie c.frac_pos⟩,
    fun _ _ _ _ _ => compareWith_up_mono, fun _ _ => rfl⟩

/-- Settles O18: the operands meet the input conditions and the quotient fits. -/
theorem cpreDerivesThePrescaler : Obligations.CpreDerivesThePrescaler := by
  rintro s _ _ rfl rfl hpos hle hfit
  have hd := derive_of_fits (c := .hardware) hpos hle (Nat.sub_le_of_le_add hfit)
  obtain ⟨hpsc, hprem⟩ := derive_value_toNat hd
  exact ⟨_, execCpre_of_value hd, hpsc, hprem, BitVec.setWidth_eq _,
    (Engine.setCode_pscv _ _).trans (Engine.setPscv_pscv _ _), Engine.setCode_code _ _,
    Engine.sameStatusBut_setPscv { s.eng with clks := _, psc := _, prem := _ } true .ok,
    Engine.sameBut_setPrescaler _ _ _ _ _, ⟨rfl, rfl, rfl, rfl, rfl⟩, rfl⟩

/-- Settles O19: each code goes with an outcome of the division other than a value. -/
theorem cpreErrorsKeepTheResults : Obligations.CpreErrorsKeepTheResults := by
  rintro s _ _ code rfl rfl hcause
  have hexec := execCpre_of_error (s := s) (code := code) (by
    obtain ⟨hcode, hunmet⟩ | ⟨hcode, hpos, hle, hlarge⟩ := hcause
    · exact .inl ⟨derive_of_unmet hunmet, hcode⟩
    · exact .inr ⟨derive_of_large hpos hle hlarge, hcode⟩)
  exact ⟨_, hexec, BitVec.setWidth_eq _, (Engine.setCode_pscv _ _).trans (Engine.setPscv_pscv _ _),
    Engine.setCode_code _ _, Engine.sameStatusBut_setPscv { s.eng with clks := _ } false code,
    Engine.sameBut_setClks _ _ _, ⟨rfl, rfl, rfl, rfl, rfl⟩, rfl⟩

/-- Settles O20: the operands meet the input conditions, the quotient fits and every duty is legal. -/
theorem cpacDerivesPeriodAndCompares : Obligations.CpacDerivesPeriodAndCompares := by
  rintro s _ _ _ rfl rfl rfl hpos hle hfit hduty
  have hper : s.eng.cntf.toNat / s.eng.outf.toNat - 1 ≤ Config.hardware.regMax := Nat.sub_le_of_le_add hfit
  have hd := derive_of_fits hpos hle hper
  have hlegal : ∀ i : Channel, dutyLegal .hardware s.eng.duty[i] = true := fun i => decide_eq_true (hduty i)
  obtain ⟨harr, harem⟩ := derive_value_toNat hd
  exact ⟨_, execCpac_of_value hd hlegal, harr, harem, fun i => compares_toNat i hper (hlegal i),
    (Engine.setCode_cfgv _ _).trans (Engine.setCfgv_cfgv _ _), Engine.setCode_code _ _,
    Engine.sameStatusBut_setCfgv { s.eng with cmp := _, arr := _, arem := _ } true .ok,
    fun _ => Engine.read_setPeriod s.eng _ _ _ _, ⟨rfl, rfl, rfl, rfl, rfl⟩, rfl⟩

/-- Settles O21: each code goes with an outcome of the division, the last one with a duty that is not legal. -/
theorem cpacErrorsKeepTheResults : Obligations.CpacErrorsKeepTheResults := by
  rintro s _ _ code rfl rfl hcause
  have hexec := execCpac_of_error (s := s) (code := code) (by
    obtain ⟨hcode, hunmet⟩ | ⟨hcode, hpos, hle, hlarge⟩ | ⟨hcode, hpos, hle, hfit, i, hi⟩ := hcause
    · exact .inl ⟨derive_of_unmet hunmet, hcode⟩
    · exact .inr (.inl ⟨derive_of_large hpos hle hlarge, hcode⟩)
    · have hillegal : dutyLegal .hardware s.eng.duty[i] = false := decide_eq_false (Nat.not_le.mpr hi)
      exact .inr (.inr ⟨⟨_, _, derive_of_fits hpos hle hfit⟩, ⟨i, hillegal⟩, hcode⟩))
  exact ⟨_, hexec, (Engine.setCode_cfgv _ _).trans (Engine.setCfgv_cfgv _ _), Engine.setCode_code _ _,
    Engine.sameStatusBut_setCfgv s.eng false code, Engine.sameBut_setStatus _ _,
    ⟨rfl, rfl, rfl, rfl, rfl⟩, rfl⟩

/-- Settles O22: each command's outcome is a function of the divider derived, CPAC's also of the duties. -/
theorem derivationsArePure : Obligations.DerivationsArePure :=
  ⟨fun _ _ _ _ => execCpre_pure, fun _ _ _ _ => execCpac_pure⟩

/-- Settles O23: what a success derives is a division with remainder. -/
theorem remaindersReportTheError : Obligations.RemaindersReportTheError := by
  refine ⟨fun s t h hv => ?_, fun s t h hv => ?_⟩
  · obtain ⟨-, -, hdiv⟩ := execCpre_derives_within_width h hv
    exact ⟨hdiv, execCpre_prem_lt h hv⟩
  · obtain ⟨-, hdiv, -⟩ := execCpac_derives_within_width h hv
    exact ⟨hdiv, execCpac_arem_lt h hv⟩

/-- Settles O25: a divisor of the clock is at most the clock, so CPRE succeeds, and the remainder is 0. -/
theorem dividingTargetIsMetExactly : Obligations.DividingTargetIsMetExactly := by
  intro s clk tgt hclk htgt hpos hpos' hdvd hfit
  have hle : tgt ≤ clk := Nat.le_of_dvd hpos (Nat.dvd_of_mod_eq_zero hdvd)
  have hquot : 0 < clk / tgt := Nat.div_pos hle hpos'
  obtain ⟨t, hexec, hpsc, hprem, -, -, -, -, -, -, hresponded⟩ :=
    cpreDerivesThePrescaler s clk tgt hclk htgt hpos' hle hfit
  refine ⟨t, hexec, hresponded, hpsc, BitVec.eq_of_toNat_eq (hprem.trans hdvd), ?_⟩
  rw [hpsc, Nat.sub_add_cancel hquot, Nat.mul_div_cancel' (Nat.dvd_of_mod_eq_zero hdvd)]

/-- Settles O26: both products are whole numbers. -/
theorem boundaryDutiesAreExact : Obligations.BoundaryDutiesAreExact := by
  intro s t i h hok
  obtain ⟨per, r, -, -, rfl⟩ | ⟨code, hd, rfl⟩ := execCpac_cases h
  · refine ⟨fun hzero => compares_eq_of_exact i ?_, fun hone => compares_eq_of_exact i ?_⟩
    · simp [hzero]
    · simp [hone]
  · have hcode : code = .ok := by simpa [State.responded] using hok
    subst hcode
    simp at hd

end Sys2Proof

/-! PROOFS. The operations of APPLY, and what they make of the timer (42_apply.md R86, R87, R89). -/

namespace Sys2Proof.Machine

variable {c : Config}

/-! ### Vectors by channel -/

section Vectors

variable {α : Type} {n : Nat} {v : Vector α n}

/-- A vector is made of its elements. -/
theorem vector_eq_ofFn {f : Fin n → α} (h : ∀ i : Fin n, v[i] = f i) :
    v = Vector.ofFn f :=
  Vector.ext fun k hk => (h ⟨k, hk⟩).trans (Vector.getElem_ofFn hk).symm

/-- An element is kept by a write that, if it is to that element, is of the same value. -/
theorem vector_set_getElem_eq {i j : Fin n} {x y : α} (hx : j = i → x = y) (h : v[i] = y) :
    (v.set j.val x j.isLt)[i] = y := by
  by_cases hji : j = i
  · subst hji
    exact (Vector.getElem_set_self j.isLt).trans (hx rfl)
  · exact (Vector.getElem_set_ne j.isLt i.isLt fun hval => hji (Fin.ext hval)).trans h

end Vectors

/-! ### What one operation leaves of one channel, and of the period -/

namespace Periph

variable {p : Periph c} {op : PeriphOp c} {i : Channel c}

/-- A compare value that is written is the one programmed (R47). -/
theorem perform_setChannelCompare_ccr (p : Periph c) (i : Channel c) (v : TimerWord c) :
    (p.perform (.setChannelCompare i v)).ccr[i] = v := Vector.getElem_set_self i.isLt

/-- An operation that writes the channel no other compare value keeps the one programmed (R31). -/
theorem perform_ccr_eq {v : TimerWord c} (hop : ∀ w, op = .setChannelCompare i w → w = v) (h : p.ccr[i] = v) :
    (p.perform op).ccr[i] = v := by
  cases op with
  | setChannelCompare j w => exact vector_set_getElem_eq (fun hji => hop w (by rw [hji])) h
  | _ => exact h

/-- An output that is switched is as it was switched (R49). -/
theorem perform_setChannelOutputEnabled_oe (p : Periph c) (i : Channel c) (on : Bool) :
    (p.perform (.setChannelOutputEnabled i on)).oe[i] = on := Vector.getElem_set_self i.isLt

/-- An operation that does not switch the channel otherwise keeps its output enable (R32). -/
theorem perform_oe_eq {on : Bool} (hop : ∀ b, op = .setChannelOutputEnabled i b → b = on) (h : p.oe[i] = on) :
    (p.perform op).oe[i] = on := by
  cases op with
  | setChannelOutputEnabled j b => exact vector_set_getElem_eq (fun hji => hop b (by rw [hji])) h
  | _ => exact h

/-- Only a write of the period can reach the timer's own copy of it (R45). -/
theorem perform_arrActive_of_ne (p : Periph c) (hop : ∀ w, op ≠ .setPeriod w) :
    (p.perform op).arrActive = p.arrActive := by
  cases op with
  | setPeriod w => exact absurd rfl (hop w)
  | _ => rfl

/-- Only a write of the channel's compare value can reach the timer's own copy of it (R47). -/
theorem perform_ccrActive_of_ne (p : Periph c) (hop : ∀ w, op ≠ .setChannelCompare i w) :
    (p.perform op).ccrActive[i] = p.ccrActive[i] := by
  rw [perform_ccrActive]
  cases op with
  | setChannelCompare j w => exact if_neg fun hji => hop w (by rw [hji])
  | _ => rfl

/-- A compare value that is written reaches the timer's own copy if the channel's preload is off (R47). -/
theorem perform_setChannelCompare_ccrActive (p : Periph c) (i : Channel c) (v : TimerWord c) :
    (p.perform (.setChannelCompare i v)).ccrActive[i] = if p.ccrPreload[i] = true then p.ccrActive[i] else v :=
  (p.perform_ccrActive _ i).trans (if_pos rfl)

/-- Only the operation that arms the channel's preload changes it (R48). -/
theorem perform_ccrPreload_of_ne (p : Periph c) (hop : op ≠ .enableChannelPreload i) :
    (p.perform op).ccrPreload[i] = p.ccrPreload[i] := by
  rw [perform_ccrPreload]
  cases op with
  | enableChannelPreload j => exact if_neg fun hji => hop (by rw [hji])
  | _ => rfl

/-- Only a switch of an output changes the output enables (R49). -/
theorem perform_oe_of_ne (p : Periph c) (hop : ∀ j b, op ≠ .setChannelOutputEnabled j b) :
    (p.perform op).oe = p.oe := by
  cases op with
  | setChannelOutputEnabled j b => exact absurd rfl (hop j b)
  | _ => rfl

/-- What every operation of a list leaves, the list leaves. -/
theorem foldl_perform_eq {α : Type} {f : Periph c → α} {ops : List (PeriphOp c)} (p : Periph c)
    (hkeep : ∀ op ∈ ops, ∀ q : Periph c, f (q.perform op) = f q) : f (ops.foldl perform p) = f p :=
  foldl_perform_of_kept (Q := fun q => f q = f p) (fun op hop q h => (hkeep op hop q).trans h) (.inl rfl)

end Periph

/-! ### The list of operations -/

section ApplyOps

variable {e : Engine c} {p : Periph c}

/-- The full path is taken before the first APPLY, and where prescaler or period are not the applied ones (R86). -/
theorem Engine.fullPath_eq_true : e.fullPath = true ↔ e.conf = false ∨ e.psc ≠ e.apsc ∨ e.arr ≠ e.aarr :=
  decide_eq_true_iff

/-- APPLY writes no compare value of a channel but CMP's (R86). -/
theorem setChannelCompare_mem_applyOps {i : Channel c} {w : TimerWord c} (h : .setChannelCompare i w ∈ applyOps e) :
    w = timerWord c e.cmp[i] := by
  obtain ⟨j, rfl, hw⟩ : ∃ j, i = j ∧ w = timerWord c e.cmp[j] := by simpa [mem_applyOps, sharedOps] using h
  exact hw

/-- APPLY switches a channel's output as CHEN says (R86). -/
theorem setChannelOutputEnabled_mem_applyOps {i : Channel c} {b : Bool}
    (h : .setChannelOutputEnabled i b ∈ applyOps e) : b = e.enabled i := by
  obtain ⟨j, rfl, hb⟩ : ∃ j, i = j ∧ b = e.enabled j := by simpa [mem_applyOps, sharedOps] using h
  exact hb

/-- The operations on one channel's compare register (R86). -/
theorem mem_compareOps {full : Bool} {j : Channel c} {op : PeriphOp c} :
    op ∈ compareOps full e j ↔
      op = .setChannelCompare j (timerWord c e.cmp[j]) ∨ full = true ∧ op = .enableChannelPreload j := by
  simp [compareOps]

/-- APPLY writes each channel's compare value once; before that, nothing arms the channel's preload (R86). -/
theorem applyOps_split_compare (e : Engine c) (i : Channel c) : ∃ before after,
    applyOps e = before ++ .setChannelCompare i (timerWord c e.cmp[i]) :: after ∧
    (∀ op ∈ before, op ≠ .enableChannelPreload i ∧ ∀ w, op ≠ .setChannelCompare i w) ∧
    ∀ op ∈ after, ∀ w, op ≠ .setChannelCompare i w := by
  obtain ⟨lower, upper, hsplit⟩ : ∃ lower upper, channels c = lower ++ i :: upper :=
    List.append_of_mem (List.mem_finRange i)
  have hnodup : (i :: (lower ++ upper)).Nodup := List.nodup_middle.mp (hsplit ▸ List.nodup_finRange c.N)
  obtain ⟨hlower, hupper⟩ : i ∉ lower ∧ i ∉ upper := by simpa using (List.nodup_cons.mp hnodup).1
  refine ⟨(if e.fullPath then sharedOps e else []) ++ lower.flatMap (compareOps e.fullPath e),
    (if e.fullPath then [.enableChannelPreload i] else []) ++ upper.flatMap (compareOps e.fullPath e) ++
      (channels c).map (enableOp e), ?_, fun op hop => ?_, fun op hop w => ?_⟩
  · have hcompares : (channels c).flatMap (compareOps e.fullPath e) =
        lower.flatMap (compareOps e.fullPath e) ++
          (compareOps e.fullPath e i ++ upper.flatMap (compareOps e.fullPath e)) := by
      rw [hsplit, List.flatMap_append, List.flatMap_cons]
    simp only [applyOps, hcompares, compareOps, List.append_assoc, List.cons_append]
  · simp only [List.mem_append, List.mem_ite_nil_right, List.mem_flatMap, mem_compareOps] at hop
    obtain ⟨-, hop⟩ | ⟨j, hj, rfl | ⟨-, rfl⟩⟩ := hop
    · simp only [sharedOps, List.mem_cons, List.not_mem_nil, or_false] at hop
      obtain rfl | rfl | rfl | rfl := hop <;> simp
    · simp [ne_of_mem_of_not_mem hj hlower]
    · simp [ne_of_mem_of_not_mem hj hlower]
  · rintro rfl
    simp only [List.mem_append, List.mem_ite_nil_right, List.mem_flatMap, mem_compareOps, List.mem_map, enableOp] at hop
    obtain (⟨-, hop⟩ | ⟨j, hj, hop⟩) | ⟨j, -, hop⟩ := hop
    · simp at hop
    · obtain ⟨rfl, -⟩ : i = j ∧ w = _ := by simpa using hop
      exact hupper hj
    · cases hop

/-! ### What they make of the timer -/

/-- After an APPLY each compare value programmed is the one in CMP (R86). -/
theorem applyOps_ccr (e : Engine c) (p : Periph c) :
    ((applyOps e).foldl Periph.perform p).ccr = Vector.ofFn fun i : Channel c => timerWord c e.cmp[i] :=
  vector_eq_ofFn fun i => Periph.foldl_perform_of_kept (Q := fun q => q.ccr[i] = timerWord c e.cmp[i])
    (fun _ hop _ => Periph.perform_ccr_eq fun _ heq => setChannelCompare_mem_applyOps (heq ▸ hop))
    (.inr ⟨_, mem_applyOps.mpr (.inr (.inl ⟨i, .inl rfl⟩)), fun q => q.perform_setChannelCompare_ccr i _⟩)

/-- After an APPLY each output is enabled as CHEN says (R86). -/
theorem applyOps_oe (e : Engine c) (p : Periph c) :
    ((applyOps e).foldl Periph.perform p).oe = Vector.ofFn fun i : Channel c => e.enabled i :=
  vector_eq_ofFn fun i => Periph.foldl_perform_of_kept (Q := fun q => q.oe[i] = e.enabled i)
    (fun _ hop _ => Periph.perform_oe_eq fun _ heq => setChannelOutputEnabled_mem_applyOps (heq ▸ hop))
    (.inr ⟨_, mem_applyOps.mpr (.inr (.inr ⟨i, rfl⟩)), fun q => q.perform_setChannelOutputEnabled_oe i _⟩)

/-- The timer's own copy of a compare value takes the new one if the channel's preload was off (R47, R86). -/
theorem applyOps_ccrActive (e : Engine c) (p : Periph c) (i : Channel c) :
    ((applyOps e).foldl Periph.perform p).ccrActive[i] =
      if p.ccrPreload[i] = true then p.ccrActive[i] else timerWord c e.cmp[i] := by
  obtain ⟨before, after, hsplit, hbefore, hafter⟩ := applyOps_split_compare e i
  have hpreload : (before.foldl Periph.perform p).ccrPreload[i] = p.ccrPreload[i] :=
    Periph.foldl_perform_eq (f := fun q => q.ccrPreload[i]) p
      fun op hop q => q.perform_ccrPreload_of_ne (hbefore op hop).1
  have hactive : (before.foldl Periph.perform p).ccrActive[i] = p.ccrActive[i] :=
    Periph.foldl_perform_eq (f := fun q => q.ccrActive[i]) p
      fun op hop q => q.perform_ccrActive_of_ne (hbefore op hop).2
  rw [hsplit, List.foldl_append, List.foldl_cons]
  calc _ = ((before.foldl Periph.perform p).perform (.setChannelCompare i (timerWord c e.cmp[i]))).ccrActive[i] :=
        Periph.foldl_perform_eq (f := fun q => q.ccrActive[i]) _
          fun op hop q => q.perform_ccrActive_of_ne (hafter op hop)
    _ = _ := by rw [Periph.perform_setChannelCompare_ccrActive, hpreload, hactive]

/-- On the full path the timer's own copy of the period takes the new one if the preload was off (R45, R86). -/
theorem applyOps_arrActive_full (hfull : e.fullPath = true) (p : Periph c) :
    ((applyOps e).foldl Periph.perform p).arrActive =
      if p.arrPreload = true then p.arrActive else timerWord c e.arr := by
  rw [applyOps, if_pos hfull, List.append_assoc, List.foldl_append]
  refine Periph.foldl_perform_eq (f := Periph.arrActive) _ fun op hop q => q.perform_arrActive_of_ne fun w => ?_
  rintro rfl
  simp [mem_compareOps, enableOp] at hop

/-- The operations of an APPLY leave the counter (R33). -/
theorem applyOps_cnt (e : Engine c) (p : Periph c) : ((applyOps e).foldl Periph.perform p).cnt = p.cnt :=
  Periph.foldl_perform_eq (f := Periph.cnt) p fun op _ q => q.perform_cnt op

/-- The operations of the re-apply path write compare values and output enables, and nothing else (R86, R89). -/
theorem applyOps_reapply (hfull : e.fullPath = false) (p : Periph c) : ∃ ccr ccrActive oe,
    (applyOps e).foldl Periph.perform p = { p with ccr := ccr, ccrActive := ccrActive, oe := oe } := by
  refine Periph.foldl_perform_of_kept
    (Q := fun q => ∃ ccr ccrActive oe, q = { p with ccr := ccr, ccrActive := ccrActive, oe := oe })
    (fun op hop q hq => ?_) (.inl ⟨p.ccr, p.ccrActive, p.oe, rfl⟩)
  obtain ⟨ccr, ccrActive, oe, rfl⟩ := hq
  obtain ⟨i, rfl⟩ | ⟨i, rfl⟩ : (∃ i, op = .setChannelCompare i (timerWord c e.cmp[i])) ∨
      ∃ i, op = .setChannelOutputEnabled i (e.enabled i) := by simpa [mem_applyOps, hfull] using hop
  · exact ⟨_, _, _, rfl⟩
  · exact ⟨_, _, _, rfl⟩

/-- What the full path makes of the programmed fields, whatever they were (R85, R86). -/
theorem programmedBy_applyOps_full (hfull : e.fullPath = true) (p : Periph c) :
    p.programmedBy (applyOps e) =
      { clkEn := true
        psc := timerWord c e.psc
        arr := timerWord c e.arr
        arrPreload := true
        ccr := Vector.ofFn fun i : Channel c => timerWord c e.cmp[i]
        ccrPreload := Vector.replicate c.N true
        oe := Vector.ofFn fun i : Channel c => e.enabled i } := by
  have hholds : ((applyOps e).foldl Periph.perform p).Holds e.psc e.arr :=
    applyOps_holds fun hreapply => absurd hfull (by simp [hreapply])
  have harmed : ((applyOps e).foldl Periph.perform p).ccrPreload = Vector.replicate c.N true :=
    Vector.ext fun k hk => (hholds.ccrPreload ⟨k, hk⟩).trans (Vector.getElem_replicate hk).symm
  rw [Periph.programmedBy, Periph.programmed, hholds.clkEn, hholds.psc, hholds.arr, hholds.arrPreload, harmed,
    applyOps_ccr, applyOps_oe]

/-- What the re-apply path makes of the programmed fields (R86, R89). -/
theorem programmedBy_applyOps_reapply (hfull : e.fullPath = false) (p : Periph c) :
    p.programmedBy (applyOps e) =
      { p.programmed with
        ccr := Vector.ofFn fun i : Channel c => timerWord c e.cmp[i]
        oe := Vector.ofFn fun i : Channel c => e.enabled i } := by
  obtain ⟨ccr, ccrActive, oe, heq⟩ := applyOps_reapply hfull p
  rw [Periph.programmedBy, ← applyOps_ccr e p, ← applyOps_oe e p, heq]
  rfl

/-- Both paths program compare values and output enables as the registers say, so an APPLY that follows with the same
registers on the re-apply path finds them there (R89). -/
theorem programmedBy_applyOps_again (p : Periph c) {q : Periph c} {e' : Engine c} (hfull : e'.fullPath = false)
    (hcmp : e'.cmp = e.cmp) (hchen : e'.chen = e.chen) (hq : q.programmed = p.programmedBy (applyOps e)) :
    q.programmedBy (applyOps e') = q.programmed := by
  rw [programmedBy_applyOps_reapply hfull, hq, Periph.programmedBy]
  simp only [Periph.programmed, applyOps_ccr, applyOps_oe, hcmp, Engine.enabled, hchen]

/-- The last N operations are the switches of the outputs: what comes before them leaves every output enable (R87). -/
theorem programmedBy_take_applyOps_oe {k : Nat} (hk : k + c.N < (applyOps e).length) (p : Periph c) :
    (p.programmedBy ((applyOps e).take k)).oe = p.oe := by
  rw [applyOps, List.length_append, List.length_map, channels, List.length_finRange] at hk
  rw [applyOps, List.take_append_of_le_length (by rw [channels]; omega)]
  refine Periph.foldl_perform_eq (f := Periph.oe) p fun op hop q => q.perform_oe_of_ne fun j b => ?_
  rintro rfl
  simpa [sharedOps, mem_compareOps] using List.mem_of_mem_take hop

end ApplyOps

end Sys2Proof.Machine

namespace Sys2Proof

open Machine

/-- Settles O28: each path is the definition's list, written out for the four channels. -/
theorem applyOperationOrder : Obligations.ApplyOperationOrder := by
  intro e cmp oe hcmp hoe
  have hchannels : channels = [(0 : Channel), 1, 2, 3] := by decide
  refine ⟨fun hfull => ?_, fun hconf hpsc harr => ?_⟩
  · rw [applyOps, Engine.fullPath_eq_true.mpr hfull, hchannels]
    simp only [hcmp, hoe]
    rfl
  · rw [applyOps, Engine.fullPath_eq_false.mpr ⟨hconf, hpsc, harr⟩, hchannels]
    simp only [hcmp, hoe]
    rfl

end Sys2Proof

/-! PROOFS. APPLY, CHON and CHOFF run to their end (42_apply.md R86 to R91). -/

namespace Sys2Proof.Machine

variable {c : Config} {s t : State c} {ops : List (PeriphOp c)} {i : Instr} {ch : Channel c} {on : Bool}

/-! ### The operations of a command -/

/-- Operations that all answer `ok` all stand in the log (R42, R133). -/
theorem runOps_trace_of_ok (h : (runOps ops s).1 = .ok) : (runOps ops s).2.trace = s.trace ++ allOk ops := by
  obtain ⟨-, -, -, -, -, -, -, ⟨-, htrace, -⟩ | ⟨k, -, hfault, -⟩⟩ := runOps_spec ops s
  · exact htrace
  · rw [hfault] at h
    cases h

/-- One operation alone (R90, R91). -/
theorem runOps_singleton (op : PeriphOp c) (s : State c) : runOps [op] s = (s.answerOf op, s.afterOp op) := by
  cases h : s.answerOf op <;> simp only [runOps, h]

/-- The state in which a command ends that has issued operations and written the engine's registers (R10, R99). -/
def State.endOps (s : State c) (ops : List (PeriphOp c)) (e : Engine c) (code : Code) : State c :=
  (State.setCode code { (runOps ops s).2 with eng := e }).respond code 0

@[simp] theorem State.endOps_eng (e : Engine c) (code : Code) : (s.endOps ops e code).eng = e.setCode code := rfl

@[simp] theorem State.endOps_periph (e : Engine c) (code : Code) :
    (s.endOps ops e code).periph = (runOps ops s).2.periph := rfl

/-- Such a command reaches the timer only, and answers once (R38, R56). -/
theorem State.endOps_sameAround (e : Engine c) (code : Code) : s.sameAround (s.endOps ops e code) :=
  runOps_sameAround ops s

theorem State.endOps_responded (e : Engine c) (code : Code) : s.responded (s.endOps ops e code) code 0 :=
  congrArg (fun log => log ++ [Response.mk code 0]) (runOps_responses ops s)

/-! ### The commands by the answer to their operations -/

/-- APPLY with valid results whose operations all answer `ok` (R86). -/
theorem execApply_of_ok (hpscv : s.eng.pscv = true) (hcfgv : s.eng.cfgv = true)
    (hops : (runOps (applyOps s.eng) s).1 = .ok) :
    execApply s = .next (s.endOps (applyOps s.eng) s.eng.applied .ok) := by
  have hrun : runOps (applyOps s.eng) s = (.ok, (runOps (applyOps s.eng) s).2) := Prod.ext hops rfl
  rw [execApply, if_neg (by simp [hpscv, hcfgv]), hrun]
  simp only [completeOk_eq, runOps_eng, State.endOps]

/-- APPLY with valid results of which an operation faults (R88). -/
theorem execApply_of_fault (hpscv : s.eng.pscv = true) (hcfgv : s.eng.cfgv = true)
    (hops : (runOps (applyOps s.eng) s).1 = .fault) :
    execApply s = .next (s.endOps (applyOps s.eng) (s.eng.setConf false) .hardwareApplyError) := by
  have hrun : runOps (applyOps s.eng) s = (.fault, (runOps (applyOps s.eng) s).2) := Prod.ext hops rfl
  rw [execApply, if_neg (by simp [hpscv, hcfgv]), hrun]
  simp only [applyError, raise_eq, runOps_eng, State.endOps]

/-- CHON or CHOFF while configured whose operation answers `ok` (R90, R91). -/
theorem switchChannel_of_ok (hconf : s.eng.conf = true)
    (hops : (runOps [.setChannelOutputEnabled ch on] s).1 = .ok) :
    switchChannel ch on s = .next (s.endOps [.setChannelOutputEnabled ch on] (s.eng.setEnabled ch on) .ok) := by
  have hrun : runOps [.setChannelOutputEnabled ch on] s = (.ok, (runOps [.setChannelOutputEnabled ch on] s).2) :=
    Prod.ext hops rfl
  rw [switchChannel, if_neg (by simp [hconf]), hrun]
  simp only [completeOk_eq, runOps_eng, State.endOps]

/-- CHON or CHOFF while configured whose operation faults (R98). -/
theorem switchChannel_of_fault (hconf : s.eng.conf = true)
    (hops : (runOps [.setChannelOutputEnabled ch on] s).1 = .fault) :
    switchChannel ch on s =
      .next (s.endOps [.setChannelOutputEnabled ch on] (s.eng.setConf false) .hardwareApplyError) := by
  have hrun : runOps [.setChannelOutputEnabled ch on] s = (.fault, (runOps [.setChannelOutputEnabled ch on] s).2) :=
    Prod.ext hops rfl
  rw [switchChannel, if_neg (by simp [hconf]), hrun]
  simp only [applyError, raise_eq, runOps_eng, State.endOps]

/-- CHON and CHOFF of a number that names a channel switch it (R90, R91). -/
theorem exec_of_switches {s : State} {ch : Channel} (hi : i.Switches ch on) : exec i s = switchChannel ch on s := by
  obtain ⟨n, hn, ⟨rfl, rfl⟩ | ⟨rfl, rfl⟩⟩ := hi
  · rw [exec, execChon, hn]
  · rw [exec, execChoff, hn]

/-- An APPLY that answers OK has had its operations performed (R86). -/
theorem Runs.of_apply_ok {rdata : Word} (h : Runs s .apply .ok rdata t) :
    (runOps (applyOps s.eng) s).1 = .ok ∧ t = s.endOps (applyOps s.eng) s.eng.applied .ok := by
  cases h with
  | read hi hread => cases hi
  | ends heffect =>
    cases heffect with
    | applied hpscv hcfgv hops => exact ⟨hops, rfl⟩
    | switched hi hconf hops =>
      obtain ⟨-, -, happly⟩ := ne_of_switches hi
      exact absurd rfl happly

/-- The state in which such an APPLY ends is the next state of `exec`. -/
theorem exec_apply_ok {s t : State} (h : exec .apply s = .next t) (hok : s.responded t .ok 0) :
    (runOps (applyOps s.eng) s).1 = .ok ∧ t = s.endOps (applyOps s.eng) s.eng.applied .ok := by
  obtain ⟨code, rdata, hruns⟩ := exec_next_runs h
  obtain rfl : code = .ok := State.responded_code_inj hruns.responded hok
  exact hruns.of_apply_ok

/-! ### The engine's registers at the end -/

/-- A write of a bit that already has its value changes nothing. -/
theorem setBit_eq_self {w : Word} {k : Nat} {b : Bool} (hk : k < 32) (h : w.getLsbD k = b) : setBit w k b = w := by
  refine BitVec.eq_of_getLsbD_eq fun j _ => ?_
  rw [setBit_getLsbD w k j b hk]
  split
  · next hj => rw [hj, h]
  · rfl

namespace Engine

variable {e : Engine c}

/-- On the re-apply path the applied record and CONF are already what they become (R89). -/
theorem applied_of_reapply (hfull : e.fullPath = false) : e.applied = e := by
  obtain ⟨hconf, hpsc, harr⟩ := fullPath_eq_false.mp hfull
  calc e.applied
      = { e with apsc := e.psc, aarr := e.arr } :=
        congrArg (fun w => { e with status := w, apsc := e.psc, aarr := e.arr }) (setBit_eq_self (by omega) hconf)
    _ = { e with aarr := e.arr } := congrArg (fun w => { e with apsc := w, aarr := e.arr }) hpsc
    _ = e := congrArg (fun w => { e with aarr := w }) harr

/-- An APPLY that has succeeded puts the next one on the re-apply path (R86, R89). -/
theorem applied_fullPath (e : Engine c) (code : Code) : (e.applied.setCode code).fullPath = false :=
  fullPath_eq_false.mpr ⟨by simp, rfl, rfl⟩

/-- Of two writes of CODE the second counts. -/
theorem setCode_setCode (e : Engine c) (code code' : Code) : (e.setCode code).setCode code' = e.setCode code' := by
  have hstatus : ((e.setCode code).setCode code').status = (e.setCode code').status := by
    refine BitVec.eq_of_getLsbD_eq fun j _ => ?_
    simp only [setCode_bit]
    split_ifs <;> rfl
  exact congrArg (fun w => { e with status := w }) hstatus

/-- A write of CONF and of CODE leaves the other bits of STATUS (R15). -/
theorem sameStatusBut_setConf (e : Engine c) (b : Bool) (code : Code) :
    Engine.sameStatusBut [6] e ((e.setConf b).setCode code) := e.sameStatusBut_setFlag (by omega) b code

/-- Writes of STATUS and the applied record leave every other register. -/
theorem sameBut_setApplied (e : Engine c) (status apsc aarr : Word) :
    Engine.sameBut [.status, .apsc, .aarr] e { e with status := status, apsc := apsc, aarr := aarr } := by
  intro reg hreg
  cases reg with
  | status | apsc | aarr => simp at hreg
  | _ => rfl

/-- Writes of STATUS and CHEN leave every other register. -/
theorem sameBut_setChen (e : Engine c) (status chen : Word) :
    Engine.sameBut [.status, .chen] e { e with status := status, chen := chen } := by
  intro reg hreg
  cases reg with
  | status | chen => simp at hreg
  | _ => rfl

end Engine

/-! ### CHON and CHOFF -/

/-- CHON or CHOFF while configured, where the oracle answers `ok`: one operation, one output enable, one bit of CHEN
(R90, R91). -/
theorem exec_switch_ok {s : State} {ch : Channel} (hi : i.Switches ch on) (hconf : s.eng.conf = true)
    (hok : s.okFor [.setChannelOutputEnabled ch on]) :
    ∃ t, exec i s = .next t ∧ t.trace = s.trace ++ [⟨.setChannelOutputEnabled ch on, .ok⟩] ∧
      t.periph.programmed = { s.periph.programmed with oe := s.periph.oe.set ch.val on ch.isLt } ∧
      (s.quietFor 1 → t.periph = { s.periph with oe := s.periph.oe.set ch.val on ch.isLt }) ∧
      (∀ j, t.eng.chen.getLsbD j = if j = ch.val then on else s.eng.chen.getLsbD j) ∧
      t.eng.code = 0 ∧ Engine.sameStatusBut [] s.eng t.eng ∧ Engine.sameBut [.status, .chen] s.eng t.eng ∧
      s.sameAround t ∧ s.responded t .ok 0 := by
  have hops := runOps_okFor _ s hok
  exact ⟨_, (exec_of_switches hi).trans (switchChannel_of_ok hconf hops), runOps_trace_of_ok hops,
    runOps_programmed_of_ok hops, fun hquiet => runOps_quiet _ s hquiet hops, s.eng.setEnabled_bit ch on,
    Engine.setCode_code _ _, Engine.sameStatusBut_setCode (s.eng.setEnabled ch on) .ok, Engine.sameBut_setChen _ _ _,
    s.endOps_sameAround _ _, s.endOps_responded _ _⟩

end Sys2Proof.Machine

namespace Sys2Proof

open Machine

/-- Settles O34: CHON switches the channel its number names. -/
theorem chonEnablesOneChannel : Obligations.ChonEnablesOneChannel :=
  fun _ n _ hval => exec_switch_ok ⟨n, channel_eq_some_iff.mpr hval, .inl ⟨rfl, rfl⟩⟩

/-- Settles O35: so does CHOFF. -/
theorem choffDisablesOneChannel : Obligations.ChoffDisablesOneChannel :=
  fun _ n _ hval => exec_switch_ok ⟨n, channel_eq_some_iff.mpr hval, .inr ⟨rfl, rfl⟩⟩

/-- Settles O36: the one operation faults, and the command clears CONF only. -/
theorem channelCommandFaultClearsConfOnly : Obligations.ChannelCommandFaultClearsConfOnly := by
  intro i s n ch on hval hi hconf hfault
  have hswitches : i.Switches ch on := ⟨n, channel_eq_some_iff.mpr hval, hi⟩
  obtain ⟨hops, htrace, hprogrammed⟩ := runOps_faultsAfter _ 0 s (by simp) hfault
  refine ⟨_, (exec_of_switches hswitches).trans (switchChannel_of_fault hconf hops), htrace, hprogrammed,
    fun hquiet => ?_, (Engine.setCode_conf _ _).trans (Engine.setConf_conf _ _), Engine.setCode_code _ _,
    s.eng.sameStatusBut_setConf _ _, Engine.sameBut_setStatus _ _, s.endOps_sameAround _ _, s.endOps_responded _ _⟩
  rw [State.endOps_periph, runOps_singleton, State.afterOp_quiet hquiet, State.faultsAfter_zero hfault]
  rfl

/-- Settles O32: the operations stop where the oracle faults, and the command clears CONF only. -/
theorem applyStopsAtTheFirstFault : Obligations.ApplyStopsAtTheFirstFault := by
  intro s k hpscv hcfgv hk hfault
  obtain ⟨hops, htrace, hprogrammed⟩ := runOps_faultsAfter _ k s hk hfault
  exact ⟨_, execApply_of_fault hpscv hcfgv hops, htrace, hprogrammed,
    (Engine.setCode_conf _ _).trans (Engine.setConf_conf _ _), Engine.setCode_code _ _,
    s.eng.sameStatusBut_setConf _ _, Engine.sameBut_setStatus _ _, s.endOps_sameAround _ _, s.endOps_responded _ _⟩

/-- Settles O33: the operations that had their effect switch no output. -/
theorem faultBeforeTheEnablesSwitchesNoOutput : Obligations.FaultBeforeTheEnablesSwitchesNoOutput := by
  intro s t k hpscv hcfgv hk hfault hexec
  obtain ⟨t', hexec', -, hprogrammed, -⟩ :=
    applyStopsAtTheFirstFault s k hpscv hcfgv (by omega) hfault
  obtain rfl : t' = t := Host.Outcome.next.inj (hexec'.symm.trans hexec)
  exact (congrArg Programmed.oe hprogrammed).trans (programmedBy_take_applyOps_oe hk s.periph)

/-- Settles O29: all operations are performed, and the full path's write every programmed field. -/
theorem applyFullPathProgramsTheTimer : Obligations.ApplyFullPathProgramsTheTimer := by
  intro s hpscv hcfgv hpath hok
  have hfull := Engine.fullPath_eq_true.mpr hpath
  have hops := runOps_okFor _ s hok
  have hlength : (applyOps s.eng).length = 16 := by
    rw [(applyOperationOrder s.eng _ _ (fun _ => rfl) fun _ => rfl).1 hpath]
    rfl
  refine ⟨_, execApply_of_ok hpscv hcfgv hops, runOps_trace_of_ok hops,
    (runOps_programmed_of_ok hops).trans (programmedBy_applyOps_full hfull s.periph), fun hquiet => ?_, rfl, rfl,
    (Engine.setCode_conf _ _).trans (Engine.applied_conf _), Engine.setCode_code _ _,
    Engine.sameStatusBut_setConf { s.eng with apsc := _, aarr := _ } true .ok, Engine.sameBut_setApplied _ _ _ _,
    s.endOps_sameAround _ _, s.endOps_responded _ _⟩
  rw [State.endOps_periph, runOps_quiet _ s (hlength ▸ hquiet) hops]
  exact ⟨applyOps_cnt _ _, applyOps_arrActive_full hfull _, applyOps_ccrActive _ _⟩

/-- Settles O30: all operations are performed, and the applied record and CONF are already what they become. -/
theorem applyAgainRewritesComparesAndEnablesOnly : Obligations.ApplyAgainRewritesComparesAndEnablesOnly := by
  intro s hpscv hcfgv hconf hpsc harr hok
  have hfull := Engine.fullPath_eq_false.mpr ⟨hconf, hpsc, harr⟩
  have hops := runOps_okFor _ s hok
  have hlength : (applyOps s.eng).length = 8 := by
    rw [(applyOperationOrder s.eng _ _ (fun _ => rfl) fun _ => rfl).2 hconf hpsc harr]
    rfl
  have hexec := execApply_of_ok hpscv hcfgv hops
  rw [Engine.applied_of_reapply hfull] at hexec
  refine ⟨_, hexec, runOps_trace_of_ok hops,
    (runOps_programmed_of_ok hops).trans (programmedBy_applyOps_reapply hfull s.periph), fun hquiet => ?_,
    (Engine.setCode_conf _ _).trans hconf, Engine.setCode_code _ _, Engine.sameStatusBut_setCode _ _,
    Engine.sameBut_setCode _ _, s.endOps_sameAround _ _, s.endOps_responded _ _⟩
  rw [State.endOps_periph, runOps_quiet _ s (hlength ▸ hquiet) hops]
  refine ⟨?_, applyOps_cnt _ _, applyOps_ccrActive _ _⟩
  obtain ⟨ccr, ccrActive, oe, heq⟩ := applyOps_reapply hfull s.periph
  rw [heq]

/-- Settles O37: the second APPLY takes the re-apply path, which writes what it finds. -/
theorem repeatedApplyChangesNothing : Obligations.RepeatedApplyChangesNothing := by
  intro s t t' u hexec hok heng hprogrammed hexec' hok'
  obtain ⟨hops, rfl⟩ := exec_apply_ok hexec hok
  obtain ⟨hops', rfl⟩ := exec_apply_ok hexec' hok'
  have hfull : t'.eng.fullPath = false := heng ▸ s.eng.applied_fullPath .ok
  constructor
  · rw [State.endOps_eng, Engine.applied_of_reapply hfull, heng]
    exact Engine.setCode_setCode _ _ _
  · have hfound : t'.periph.programmed = s.periph.programmedBy (applyOps s.eng) :=
      hprogrammed.trans (runOps_programmed_of_ok hops)
    calc _ = t'.periph.programmedBy (applyOps t'.eng) := runOps_programmed_of_ok hops'
      _ = t'.periph.programmed :=
        programmedBy_applyOps_again (e := s.eng) s.periph hfull (by rw [heng]; rfl) (by rw [heng]; rfl) hfound
      _ = _ := hprogrammed

end Sys2Proof

/-! PROOFS. The lifecycle (10_state.md R34, 42_apply.md R92). -/

namespace Sys2Proof.Machine

variable {c : Config} {s t : State c}

/-- The engine is unconfigured exactly while CONF is 0 (R34). -/
theorem State.lifecycle_eq_unconfigured : s.lifecycle = .unconfigured ↔ s.eng.conf = false := by
  unfold State.lifecycle
  cases s.eng.conf <;> cases s.periph.cntEn <;> simp

/-- While CONF is 1 the counter enable decides (R34). -/
theorem State.lifecycle_of_conf (h : s.eng.conf = true) :
    s.lifecycle = if s.periph.cntEn then .running else .configured := if_pos h

/-- The lifecycle state is a view of CONF and of the counter enable (R34). -/
theorem State.lifecycle_congr (hconf : t.eng.conf = s.eng.conf) (hcntEn : t.periph.cntEn = s.periph.cntEn) :
    t.lifecycle = s.lifecycle := by
  rw [State.lifecycle, State.lifecycle, hconf, hcntEn]

/-- The host's start takes a configured engine to running (R92). -/
theorem State.lifecycle_startCounter (s : State c) (n : TimerWord c) :
    (s.startCounter n).lifecycle = if s.lifecycle = .unconfigured then .unconfigured else .running := by
  simp only [State.lifecycle_eq_unconfigured]
  cases hconf : s.eng.conf with
  | false => exact State.lifecycle_eq_unconfigured.mpr hconf
  | true => exact State.lifecycle_of_conf hconf

/-- The host's stop takes it back to configured (R92). -/
theorem State.lifecycle_stopCounter (s : State c) :
    s.stopCounter.lifecycle = if s.lifecycle = .unconfigured then .unconfigured else .configured := by
  simp only [State.lifecycle_eq_unconfigured]
  cases hconf : s.eng.conf with
  | false => exact State.lifecycle_eq_unconfigured.mpr hconf
  | true => exact State.lifecycle_of_conf hconf

end Sys2Proof.Machine

namespace Sys2Proof

open Machine

/-- Settles O41: a command changes CONF as the table of flags says and leaves the counter enable. -/
theorem lifecycleFollowsTheTable : Obligations.LifecycleFollowsTheTable := by
  refine ⟨fun i s => ?_, fun cmd wdata why s hwhy => ?_, fun n s => ⟨_, rfl, s.lifecycle_startCounter n⟩,
    fun s => ⟨_, rfl, s.lifecycle_stopCounter⟩,
    fun s => ⟨_, rfl, State.lifecycle_congr rfl (Periph.tick_cntEn _ _)⟩,
    fun s => ⟨_, rfl, State.lifecycle_eq_unconfigured.mpr Engine.reset_conf⟩, fun s => ⟨_, rfl, rfl⟩⟩
  · obtain ⟨t, code, rdata, hexec, hresponded, -, -, hconf⟩ := flagsChangeOnlyAsTheTableSays i s
    obtain ⟨-, -, -, hcntEn, -⟩ := commandsReachOnlyTheirOwnSpace i s t hexec
    simp only [ne_eq, State.lifecycle_eq_unconfigured, Bool.not_eq_false]
    refine ⟨t, code, rdata, hexec, hresponded, fun _ hi hok => ?_, fun hs hne => ?_, fun _ hfault => ?_,
      fun hs hne => State.lifecycle_congr ?_ hcntEn⟩
    · rw [State.lifecycle_of_conf (by simp [hconf, hi, hok]), hcntEn]
    · simp [hconf, hne, hs]
    · simp [hconf, hfault]
    · simp [hconf, hne, hs]
  · rw [runCommand_of_illegal hwhy, raise_eq]
    exact ⟨_, rfl, State.lifecycle_congr (Engine.setCode_conf _ _) rfl⟩

end Sys2Proof

/-! PROOFS. Errors that do nothing but answer (60_exceptions.md R101, R102). -/

namespace Sys2Proof.Machine

variable {c : Config} {s : State c} {ch : Channel c} {on : Bool}

/-- APPLY without valid results raises before anything else (R101). -/
theorem execApply_of_notReady (hflags : s.eng.pscv = false ∨ s.eng.cfgv = false) :
    execApply s = raise .notReady s := if_pos hflags

/-- CHON and CHOFF while not configured raise before anything else (R101). -/
theorem switchChannel_of_notReady (hconf : s.eng.conf = false) :
    switchChannel ch on s = raise .notReady s := if_pos hconf

end Sys2Proof.Machine

namespace Sys2Proof

open Machine

/-- Settles O10: the step takes the transaction, and the engine raises on the word. -/
theorem stepOfAnIllegalWordWritesTheCodeOnly : Obligations.StepOfAnIllegalWordWritesTheCodeOnly := by
  intro s cmd wdata rest why hinputs hreset hwhy
  rw [step_command hinputs hreset, runCommand_of_illegal hwhy]
  exact raise_frame .illegalCommand { s with inputs := rest }

/-- Settles O31: each of the three commands raises at its first test. -/
theorem notReadyDoesNothing : Obligations.NotReadyDoesNothing := by
  intro i s h
  have hexec : exec i s = raise .notReady s := by
    obtain ⟨rfl, hflags⟩ | ⟨⟨n, hn, hi⟩, hconf⟩ := h
    · exact execApply_of_notReady hflags
    · obtain rfl | rfl := hi
      · exact (exec_of_switches ⟨n, channel_some hn, .inl ⟨rfl, rfl⟩⟩).trans (switchChannel_of_notReady hconf)
      · exact (exec_of_switches ⟨n, channel_some hn, .inr ⟨rfl, rfl⟩⟩).trans (switchChannel_of_notReady hconf)
  rw [hexec]
  exact raise_frame .notReady s

end Sys2Proof

/-! PROOFS. A run goes on, and what it has shown stays shown (60_exceptions.md R104, 70_reset_and_hazards.md R132,
R133). -/

namespace Sys2Proof.Machine

/-! ### What a run has shown -/

section Shown

variable {c : Config} {s t u : State c} {i : Instr} {code : Code}

/-- What the run has shown at `s` is the beginning of what it has shown at `t` (R133). -/
structure State.ShownBy (s t : State c) : Prop where
  responses : s.responses <+: t.responses
  trace : s.trace <+: t.trace

theorem State.ShownBy.refl (s : State c) : s.ShownBy s := ⟨List.prefix_rfl, List.prefix_rfl⟩

/-- The operations of a command are put at the end of the log (R133). -/
theorem runOps_trace_grows (ops : List (PeriphOp c)) (s : State c) : s.trace <+: (runOps ops s).2.trace := by
  obtain ⟨-, -, -, -, -, -, -, ⟨-, htrace, -⟩ | ⟨k, -, -, htrace, -⟩⟩ := runOps_spec ops s
  · exact ⟨_, htrace.symm⟩
  · exact ⟨_, htrace.symm⟩

/-- A command takes nothing out of the log of operations. -/
theorem Effect.trace_grows (h : Effect s i code u) : s.trace <+: u.trace := by
  cases h with
  | applyFaulted hpscv hcfgv hops => exact runOps_trace_grows _ s
  | applied hpscv hcfgv hops => exact runOps_trace_grows _ s
  | switchFaulted hi hconf hops => exact runOps_trace_grows _ s
  | switched hi hconf hops => exact runOps_trace_grows _ s
  | _ => exact List.prefix_rfl

end Shown

/-- Nothing a step is made of takes back what the run has shown. -/
theorem shownBy_keptByAll (s : State) : KeptByAll s.ShownBy where
  inputs _ _ h := ⟨h.responses, h.trace⟩
  effect _ _ _ _ heffect h := ⟨heffect.responses ▸ h.responses, h.trace.trans heffect.trace_grows⟩
  code _ _ h := ⟨h.responses, h.trace⟩
  response _ _ _ h := ⟨h.responses.trans (List.prefix_append _ _), h.trace⟩
  assertReset _ h := ⟨h.responses, h.trace⟩
  releaseReset _ h := ⟨h.responses, h.trace⟩
  startCounter _ _ h := ⟨h.responses, h.trace⟩
  stopCounter _ h := ⟨h.responses, h.trace⟩
  tick _ h := ⟨h.responses, h.trace⟩

/-! ### Every step has a next state -/

/-- A transaction ends, its word legal or not (R104, R132). -/
theorem runCommand_next (cmd wdata : Word) (s : State) : ∃ t, runCommand cmd wdata s = .next t := by
  cases hdecode : decode cmd wdata with
  | ok i =>
    obtain ⟨code, rdata, t, -, hexec⟩ := exec_runs i s
    exact ⟨t, (runCommand_of_legal hdecode).trans hexec⟩
  | error why => exact ⟨_, runCommand_of_illegal hdecode⟩

/-- Every input of the outside world is taken (R8, R119). -/
theorem accept_next (input : Input) (s : State) : ∃ t, accept input s = .next t := by
  cases input with
  | command cmd wdata =>
    cases hreset : s.inReset with
    | true => exact ⟨s, if_pos hreset⟩
    | false =>
      obtain ⟨t, ht⟩ := runCommand_next cmd wdata s
      exact ⟨t, (if_neg (Bool.eq_false_iff.mp hreset)).trans ht⟩
  | _ => exact ⟨_, rfl⟩

/-- No state stops the machine (R104, R132). -/
theorem step_next (s : State) : ∃ t, step s = .next t := by
  unfold step
  split
  · exact ⟨s, rfl⟩
  · next input t _ => exact accept_next input t

end Sys2Proof.Machine

namespace Sys2Proof

open Machine

/-- Settles O11: every step has a next state, and that what the run has shown is still shown is kept by all that a step
is made of. -/
theorem everyStepGoesOn : Obligations.EveryStepGoesOn := by
  intro s
  obtain ⟨t, hstep⟩ := step_next s
  obtain ⟨hresponses, htrace⟩ := (shownBy_keptByAll s).step hstep (State.ShownBy.refl s)
  exact ⟨t, hstep, hresponses, htrace⟩

end Sys2Proof

/-! PROOFS. What the timer counter does is invisible to the engine (60_exceptions.md R108, R117, R133): two runs of one
command from states that show the same. -/

namespace Sys2Proof.Machine

variable {c : Config} {s s' t u : State c} {i : Instr} {code : Code} {rdata : Word}

/-! ### States that show the same -/

namespace State

/-- Two states show the same where R133's four parts are the same. -/
theorem observe_congr (hresponses : s.responses = s'.responses) (heng : s.eng = s'.eng) (htrace : s.trace = s'.trace)
    (hprogrammed : s.periph.programmed = s'.periph.programmed) : s.observe = s'.observe := by
  rw [observe, observe, hresponses, heng, htrace, hprogrammed]

/-- The same write of the engine's registers keeps two states showing the same. -/
theorem observe_setEng {e e' : Engine c} (h : s.observe = s'.observe) (he : e = e') :
    { s with eng := e }.observe = { s' with eng := e' }.observe :=
  congrArg₂ (fun o e => { o with eng := e }) h he

theorem observe_respond (code : Code) (rdata : Word) (h : s.observe = s'.observe) :
    (s.respond code rdata).observe = (s'.respond code rdata).observe :=
  congrArg (fun o => { o with responses := o.responses ++ [Response.mk code rdata] }) h

theorem observe_setCode (code : Code) (h : s.observe = s'.observe) :
    (s.setCode code).observe = (s'.setCode code).observe :=
  congrArg (fun o => { o with eng := o.eng.setCode code }) h

end State

/-! ### Settled oracles -/

namespace FaultOracle

variable {o : FaultOracle} {m n : Nat}

theorem settledFor_of_le (h : o.settledFor n) (hle : m ≤ n) : o.settledFor m := by
  cases o with
  | answers next => exact Nat.le_trans hle h
  | _ => trivial

/-- One operation uses up at most one of the answers that are settled. -/
theorem settledFor_advance (h : o.settledFor (n + 1)) : o.advance.settledFor n := by
  cases o with
  | answers next => exact (Nat.le_sub_of_add_le h).trans_eq List.length_tail.symm
  | _ => trivial

/-- A settled oracle looks at no field of `P` but the clock gate (R42). -/
theorem answer_congr (h : o.settledFor (n + 1)) (before : List (OpRecord c)) {p q : Periph c}
    (hclk : p.clkEn = q.clkEn) (op : PeriphOp c) : o.answer before p op = o.answer before q op := by
  cases o with
  | clockGated => rw [answer, answer, hclk]
  | answers next =>
    cases next with
    | nil => exact absurd h (Nat.not_succ_le_zero n)
    | cons a next => rfl
  | _ => rfl

end FaultOracle

/-! ### The same operations on two timers that look the same -/

/-- The two states show the same, and the next `n` operations are answered by one oracle that is settled for them. -/
structure State.AlikeFor (n : Nat) (s s' : State c) : Prop where
  observe : s.observe = s'.observe
  faults : s.env.faults = s'.env.faults
  settled : s.env.faults.settledFor n

namespace State.AlikeFor

variable {m n : Nat}

theorem responses (h : s.AlikeFor n s') : s.responses = s'.responses := congrArg Observation.responses h.observe

theorem eng (h : s.AlikeFor n s') : s.eng = s'.eng := congrArg Observation.eng h.observe

theorem trace (h : s.AlikeFor n s') : s.trace = s'.trace := congrArg Observation.trace h.observe

theorem programmed (h : s.AlikeFor n s') : s.periph.programmed = s'.periph.programmed :=
  congrArg Observation.programmed h.observe

theorem of_le (h : s.AlikeFor n s') (hle : m ≤ n) : s.AlikeFor m s' :=
  ⟨h.observe, h.faults, FaultOracle.settledFor_of_le h.settled hle⟩

/-- However many ticks fall before it, the next operation gets the same answer (R53, R108). -/
theorem answerOf_eq (h : s.AlikeFor (n + 1) s') (op : PeriphOp c) : s.answerOf op = s'.answerOf op := by
  have hclk : s.ticksBefore.periph.clkEn = s'.ticksBefore.periph.clkEn := by
    rw [ticksBefore_clkEn, ticksBefore_clkEn]
    exact congrArg Programmed.clkEn h.programmed
  rw [answerOf, answerOf, ← h.faults, ← h.trace]
  exact FaultOracle.answer_congr h.settled _ hclk op

theorem afterOp_programmed_eq (h : s.AlikeFor (n + 1) s') (op : PeriphOp c) :
    (s.afterOp op).periph.programmed = (s'.afterOp op).periph.programmed := by
  rw [afterOp_programmed, afterOp_programmed, ← h.answerOf_eq op, h.programmed,
    Periph.perform_programmed_congr op h.programmed]

/-- An operation leaves the two alike for the rest. -/
theorem afterOp (h : s.AlikeFor (n + 1) s') (op : PeriphOp c) : (s.afterOp op).AlikeFor n (s'.afterOp op) where
  observe := by
    refine observe_congr ?_ ?_ ?_ (h.afterOp_programmed_eq op)
    · rw [afterOp_responses, afterOp_responses, h.responses]
    · rw [afterOp_eng, afterOp_eng, h.eng]
    · rw [afterOp_trace, afterOp_trace, h.trace, h.answerOf_eq op]
  faults := by rw [afterOp_faults, afterOp_faults, h.faults]
  settled := by
    rw [afterOp_faults]
    exact FaultOracle.settledFor_advance h.settled

end State.AlikeFor

/-- Operations on two states that are alike get the same answer and leave states that show the same (R108). -/
theorem runOps_alike (ops : List (PeriphOp c)) : ∀ {s s' : State c}, s.AlikeFor ops.length s' →
    (runOps ops s).1 = (runOps ops s').1 ∧ (runOps ops s).2.observe = (runOps ops s').2.observe := by
  induction ops with
  | nil => exact fun h => ⟨rfl, h.observe⟩
  | cons op ops ih =>
    intro s s' h
    have hanswer := h.answerOf_eq op
    cases ha : s.answerOf op with
    | ok =>
      simp only [runOps, ← hanswer, ha]
      exact ih (h.afterOp op)
    | fault =>
      simp only [runOps, ← hanswer, ha]
      exact ⟨trivial, (h.afterOp op).observe⟩

/-- An APPLY issues at most four operations and three for each channel (R86). -/
theorem applyOps_length_le (e : Engine c) : (applyOps e).length ≤ 4 + 3 * c.N := by
  cases hfull : e.fullPath with
  | true =>
    simp [applyOps, hfull, sharedOps, compareOps, channels, List.length_flatMap]
    omega
  | false =>
    simp [applyOps, hfull, compareOps, channels, List.length_flatMap]
    omega

/-! ### The same command on two states that look the same -/

/-- The meaning of a command that has an effect is to end with it. -/
theorem Effect.exec_eq {s u : State} (h : Effect s i code u) :
    exec i s = .next ((u.setCode code).respond code 0) := by
  cases h with
  | illFormed hi => exact exec_of_illFormed s hi
  | stored hi =>
    obtain ⟨hpresent, hwritable⟩ := Bool.and_eq_true_iff.mp hi
    exact exec_wr _ s hpresent hwritable
  | prescaler hd => exact execCpre_of_value hd
  | noPrescaler hd => exact execCpre_of_error hd
  | period hd hduty => exact execCpac_of_value hd hduty
  | noPeriod hd => exact execCpac_of_error hd
  | applyNotReady hflags => exact execApply_of_notReady hflags
  | applyFaulted hpscv hcfgv hops => exact execApply_of_fault hpscv hcfgv hops
  | applied hpscv hcfgv hops => exact execApply_of_ok hpscv hcfgv hops
  | switchNotReady hi hconf => exact (exec_of_switches hi).trans (switchChannel_of_notReady hconf)
  | switchFaulted hi hconf hops => exact (exec_of_switches hi).trans (switchChannel_of_fault hconf hops)
  | switched hi hconf hops => exact (exec_of_switches hi).trans (switchChannel_of_ok hconf hops)

/-- A command run to its end is what its meaning answers. -/
theorem Runs.exec_eq {s t : State} (h : Runs s i code rdata t) : exec i s = .next t := by
  cases h with
  | read hi hread => exact hi ▸ exec_rd hread
  | ends heffect => exact heffect.exec_eq

/-- A command has the same effect on two states that are alike, as far as it shows (R108). -/
theorem Effect.alike (h : Effect s i code u) (halike : s.AlikeFor (4 + 3 * c.N) s')
    (hclock : s.clockAnswer = s'.clockAnswer) : ∃ u', Effect s' i code u' ∧ u.observe = u'.observe := by
  have heng := halike.eng
  have hobserve := halike.observe
  have hone : 1 ≤ 4 + 3 * c.N := by omega
  cases h with
  | illFormed hi => exact ⟨_, .illFormed hi, hobserve⟩
  | stored hi => exact ⟨_, .stored hi, State.observe_setEng hobserve (by rw [heng])⟩
  | prescaler hd =>
    rw [hclock, heng] at hd
    exact ⟨_, .prescaler hd, State.observe_setEng hobserve (by rw [heng, hclock])⟩
  | noPrescaler hd =>
    rw [hclock, heng] at hd
    exact ⟨_, .noPrescaler hd, State.observe_setEng hobserve (by rw [heng, hclock])⟩
  | period hd hduty =>
    rw [heng] at hd hduty
    exact ⟨_, .period hd hduty, State.observe_setEng hobserve (by rw [heng])⟩
  | noPeriod hd =>
    rw [heng] at hd
    exact ⟨_, .noPeriod hd, State.observe_setEng hobserve (by rw [heng])⟩
  | applyNotReady hflags => exact ⟨_, .applyNotReady (heng ▸ hflags), hobserve⟩
  | applyFaulted hpscv hcfgv hops =>
    obtain ⟨hanswer, hshown⟩ := runOps_alike _ (halike.of_le (applyOps_length_le s.eng))
    rw [heng] at hpscv hcfgv hops hanswer hshown
    exact ⟨_, .applyFaulted hpscv hcfgv (hanswer ▸ hops), by rw [heng]; exact State.observe_setEng hshown rfl⟩
  | applied hpscv hcfgv hops =>
    obtain ⟨hanswer, hshown⟩ := runOps_alike _ (halike.of_le (applyOps_length_le s.eng))
    rw [heng] at hpscv hcfgv hops hanswer hshown
    exact ⟨_, .applied hpscv hcfgv (hanswer ▸ hops), by rw [heng]; exact State.observe_setEng hshown rfl⟩
  | switchNotReady hi hconf => exact ⟨_, .switchNotReady hi (heng ▸ hconf), hobserve⟩
  | @switchFaulted _ ch on hi hconf hops =>
    obtain ⟨hanswer, hshown⟩ := runOps_alike [.setChannelOutputEnabled ch on] (halike.of_le hone)
    exact ⟨_, .switchFaulted hi (heng ▸ hconf) (hanswer ▸ hops), State.observe_setEng hshown (by rw [heng])⟩
  | @switched _ ch on hi hconf hops =>
    obtain ⟨hanswer, hshown⟩ := runOps_alike [.setChannelOutputEnabled ch on] (halike.of_le hone)
    exact ⟨_, .switched hi (heng ▸ hconf) (hanswer ▸ hops), State.observe_setEng hshown (by rw [heng])⟩

/-- So it answers the same and ends in states that show the same. -/
theorem Runs.alike (h : Runs s i code rdata t) (halike : s.AlikeFor (4 + 3 * c.N) s')
    (hclock : s.clockAnswer = s'.clockAnswer) : ∃ t', Runs s' i code rdata t' ∧ t.observe = t'.observe := by
  cases h with
  | read hi hread => exact ⟨_, .read hi (halike.eng ▸ hread), State.observe_respond _ _ halike.observe⟩
  | ends heffect =>
    obtain ⟨u', heffect', hshown⟩ := heffect.alike halike hclock
    exact ⟨_, .ends heffect', State.observe_respond _ _ (State.observe_setCode _ hshown)⟩

end Sys2Proof.Machine

namespace Sys2Proof

open Machine

/-- Settles O42: the run from the first state is matched by one from the second that shows the same, and a command has
one run. -/
theorem engineIsBlindToTheCounter : Obligations.EngineIsBlindToTheCounter := by
  intro i s s' t t' hobserve hclock hfaults hsettled hexec hexec'
  obtain ⟨code, rdata, hruns⟩ := exec_next_runs hexec
  obtain ⟨u, hruns', hshown⟩ := hruns.alike ⟨hobserve, hfaults, hsettled⟩ hclock
  obtain rfl : u = t' := Host.Outcome.next.inj (hruns'.exec_eq.symm.trans hexec')
  exact hshown

end Sys2Proof

/-! PROOFS. The timer counter, its update event and the outputs (60_exceptions.md R110 to R115). -/

namespace Sys2Proof.Machine

variable {c : Config}

/-! ### One tick -/

namespace Periph

variable {p : Periph c} {i : Channel c}

/-- A tick at the active period wraps the counter and is an update event (R110). -/
theorem tick_at_period (n : Nat) (hen : p.cntEn = true) (hcnt : p.cnt = p.arrActive) :
    p.tick n = { p with cnt := 0 }.updateEvent := by
  rw [tick, if_neg (by simp [hen]), if_pos hcnt]

/-- A tick below the active period counts (R110). -/
theorem tick_below_period (n : Nat) (hen : p.cntEn = true) (hcnt : p.cnt.toNat < p.arrActive.toNat) :
    p.tick n = { p with cnt := p.cnt + 1 } := by
  have hlt : p.cnt < p.arrActive := hcnt
  rw [tick, if_neg (by simp [hen]), if_neg (BitVec.ne_of_lt hlt), if_pos hlt]

/-- Below the active period the count stays within the counter's width (R110). -/
theorem cnt_add_one_toNat (hcnt : p.cnt.toNat < p.arrActive.toNat) : (p.cnt + 1).toNat = p.cnt.toNat + 1 := by
  have hlt : p.cnt.toNat + 1 < 2 ^ c.W := Nat.lt_of_le_of_lt hcnt p.arrActive.isLt
  simp [BitVec.toNat_add, Nat.mod_eq_of_lt hlt]

/-- The timer's own copy of a channel's compare value after an update event (R111). -/
theorem updateEvent_ccrActive (p : Periph c) (i : Channel c) :
    p.updateEvent.ccrActive[i] = if p.ccrPreload[i] = true then p.ccr[i] else p.ccrActive[i] :=
  Vector.getElem_ofFn i.isLt

/-! ### The output of a channel -/

/-- An enabled channel is asserted below its compare value (R112). -/
theorem output_of_enabled (h : p.oe[i] = true) :
    p.output i = some (decide (p.cnt.toNat < p.ccrActive[i].toNat)) := if_pos h

/-- A disabled channel has no value (R113, log 8). -/
theorem output_of_disabled (h : p.oe[i] = false) : p.output i = none := if_neg (Bool.eq_false_iff.mp h)

/-- At counter 0 every enabled channel with a compare value above 0 is asserted (R114). -/
theorem output_at_zero (h : p.oe[i] = true) (hcnt : p.cnt = 0) (hccr : p.ccrActive[i] ≠ 0) :
    p.output i = some true := by
  have hpos : p.cnt.toNat < p.ccrActive[i].toNat := by
    rw [hcnt]
    exact (BitVec.pos_iff_ne_zero _).mpr hccr
  rw [output_of_enabled h, decide_eq_true hpos]

end Periph

/-! ### One cycle of the counter -/

section Cycle

variable {s : State c}

/-- The last of `n + 1` ticks comes after the other `n`. -/
theorem State.ticks_succ_last (n : Nat) : ∀ s : State c, s.ticks (n + 1) = (s.ticks n).tick := by
  induction n with
  | zero => exact fun _ => rfl
  | succ n ih => exact fun s => ih s.tick

/-- Up to the active period, ticks from counter 0 count and do nothing else (R110). -/
theorem State.ticks_periph_of_le (hen : s.periph.cntEn = true) (hcnt : s.periph.cnt = 0) {n : Nat}
    (hn : n ≤ s.periph.arrActive.toNat) : (s.ticks n).periph = { s.periph with cnt := BitVec.ofNat c.W n } := by
  induction n with
  | zero => rw [State.ticks_zero, ← BitVec.ofNat_eq_ofNat, ← hcnt]
  | succ n ih =>
    have hlt : (BitVec.ofNat c.W n).toNat < s.periph.arrActive.toNat :=
      Nat.lt_of_le_of_lt (Nat.mod_le _ _) hn
    calc (s.ticks (n + 1)).periph
        = (s.ticks n).periph.tick (s.ticks n).env.elapsed := congrArg State.periph (State.ticks_succ_last n s)
      _ = { s.periph with cnt := BitVec.ofNat c.W n + 1 } := by
        rw [ih (Nat.le_of_lt hn)]
        exact Periph.tick_below_period _ hen hlt
      _ = { s.periph with cnt := BitVec.ofNat c.W (n + 1) } := by
        rw [BitVec.ofNat_add]
        rfl

/-- The tick after the last of a cycle is the update event (R110, R111). -/
theorem State.ticks_periph_wrap (hen : s.periph.cntEn = true) (hcnt : s.periph.cnt = 0) :
    (s.ticks (s.periph.arrActive.toNat + 1)).periph = s.periph.updateEvent := by
  calc (s.ticks (s.periph.arrActive.toNat + 1)).periph
      = (s.ticks s.periph.arrActive.toNat).periph.tick _ := congrArg State.periph (State.ticks_succ_last _ s)
    _ = { s.periph with cnt := 0 }.updateEvent := by
      rw [State.ticks_periph_of_le hen hcnt le_rfl]
      exact Periph.tick_at_period _ hen (BitVec.ofNat_toNat _ _ ▸ BitVec.setWidth_eq _)
    _ = s.periph.updateEvent := by rw [← hcnt]

/-- The counter and an enabled channel's output on the `n`-th tick of a cycle (R112, R115). -/
theorem State.ticks_output_of_le {i : Channel c} (hen : s.periph.cntEn = true) (hcnt : s.periph.cnt = 0)
    (hoe : s.periph.oe[i] = true) {n : Nat} (hn : n ≤ s.periph.arrActive.toNat) :
    (s.ticks n).periph.cnt.toNat = n ∧
      (s.ticks n).periph.output i = some (decide (n < s.periph.ccrActive[i].toNat)) := by
  have hcount : (BitVec.ofNat c.W n).toNat = n :=
    Nat.mod_eq_of_lt (Nat.lt_of_le_of_lt hn s.periph.arrActive.isLt)
  have hout := Periph.output_of_enabled (p := { s.periph with cnt := BitVec.ofNat c.W n }) hoe
  rw [hcount] at hout
  rw [State.ticks_periph_of_le hen hcnt hn]
  exact ⟨hcount, hout⟩

/-- Of the numbers below `m`, as many as `k` are below `k`. -/
theorem length_filter_range_lt {k m : Nat} (h : k ≤ m) :
    ((List.range m).filter fun n => decide (n < k)).length = k := by
  obtain ⟨j, rfl⟩ := Nat.exists_eq_add_of_le h
  calc ((List.range (k + j)).filter fun n => decide (n < k)).length
      = Nat.count (· < k) (k + j) := List.countP_eq_length_filter.symm
    _ = Nat.count (· < k) k + Nat.count (fun n => k + n < k) j := Nat.count_add _ _ _
    _ = k := by rw [Nat.count_of_forall fun _ hn => hn, Nat.count_of_forall_not fun n _ => by omega, Nat.add_zero]

end Cycle

end Sys2Proof.Machine

namespace Sys2Proof

open Machine

/-- Settles O56: a tick by the place of the counter against the active period. -/
theorem tickCountsAndWraps : Obligations.TickCountsAndWraps := by
  intro c n p
  refine ⟨Periph.tick_at_period n, fun hen hcnt => ?_, Periph.tick_stopped n p, Periph.tick_programmed n p,
    Periph.tick_cntEn n p⟩
  rw [Periph.tick_below_period n hen hcnt]
  exact ⟨rfl, Periph.cnt_add_one_toNat hcnt⟩

/-- Settles O57: field by field of `P`. -/
theorem updateEventLatchesThePreloads : Obligations.UpdateEventLatchesThePreloads :=
  fun _ p => ⟨rfl, p.updateEvent_ccrActive, p.updateEvent_programmed, p.updateEvent_cnt, p.updateEvent_cntEn⟩

/-- Settles O58: by the output enable, and at counter 0 by the compare value. -/
theorem outputOfAChannel : Obligations.OutputOfAChannel :=
  fun _ _ _ => ⟨Periph.output_of_enabled, Periph.output_of_disabled, Periph.output_at_zero⟩

/-- Settles O59: on the ticks of a cycle only the counter changes, and it counts them. -/
theorem onePwmCycle : Obligations.OnePwmCycle := by
  rintro s i _ _ hen hcnt hoe rfl rfl hle
  refine ⟨fun n => State.ticks_output_of_le hen hcnt hoe, ?_, State.ticks_periph_wrap hen hcnt⟩
  rw [← length_filter_range_lt (Nat.le_succ_of_le hle)]
  refine congrArg List.length (List.filter_congr fun n hn => ?_)
  obtain ⟨-, hout⟩ := State.ticks_output_of_le hen hcnt hoe (Nat.le_of_lt_succ (List.mem_range.mp hn))
  rw [hout]
  simp

end Sys2Proof

/-! PROOFS. No output is switched before a compare value of its channel was loaded (42_apply.md R87, R90, R91,
70_reset_and_hazards.md R130), and the reset input (R119). -/

namespace Sys2Proof.Machine

variable {c : Config}

/-! ### What a log of operations has loaded -/

section Log

variable {trace more : List (OpRecord c)} {i : Channel c}

/-- The log holds a compare write of the channel that was performed: what `State.switchesSafely` asks of every channel
while the engine is configured. -/
def HasLoaded (trace : List (OpRecord c)) (i : Channel c) : Prop := ∃ r ∈ trace, r.loads i

/-- A compare value that was loaded stays loaded as the log grows. -/
theorem HasLoaded.mono (h : HasLoaded trace i) (hgrows : trace <+: more) : HasLoaded more i := by
  obtain ⟨r, hr, hloads⟩ := h
  exact ⟨r, hgrows.subset hr, hloads⟩

/-- Operations that were all performed have loaded the channels whose compare value they write. -/
theorem hasLoaded_allOk {ops : List (PeriphOp c)} {v : TimerWord c} (h : .setChannelCompare i v ∈ ops) :
    HasLoaded (trace ++ allOk ops) i :=
  ⟨⟨.setChannelCompare i v, .ok⟩, List.mem_append_right _ (List.mem_map_of_mem h), v, rfl⟩

/-- One more operation keeps the log safe if, where it switches an output, the channel has been loaded. -/
theorem loadedBeforeSwitched_concat {op : PeriphOp c} {a : Answer} (h : loadedBeforeSwitched trace)
    (hop : ∀ i b, op = .setChannelOutputEnabled i b → HasLoaded trace i) :
    loadedBeforeSwitched (trace ++ [⟨op, a⟩]) := by
  intro before after i b a' hsplit
  obtain rfl | ⟨init, last, rfl⟩ := after.eq_nil_or_concat
  · obtain ⟨rfl, hlast⟩ := List.append_inj' hsplit rfl
    obtain ⟨rfl, -⟩ : op = _ ∧ a = a' := by simpa using hlast
    exact hop i b rfl
  · rw [List.concat_eq_append, ← List.cons_append, ← List.append_assoc] at hsplit
    obtain ⟨htrace, -⟩ := List.append_inj' hsplit rfl
    exact h before init i b a' htrace

end Log

/-! ### The operations of a command -/

section Operations

variable {s : State c} {e : Engine c}

/-- The operations of a command keep the log safe if every channel they switch has been loaded before the first of
them. -/
theorem runOps_loadedBeforeSwitched (ops : List (PeriphOp c)) : ∀ {s : State c}, loadedBeforeSwitched s.trace →
    (∀ i b, .setChannelOutputEnabled i b ∈ ops → HasLoaded s.trace i) →
    loadedBeforeSwitched (runOps ops s).2.trace := by
  induction ops with
  | nil => exact fun hs _ => hs
  | cons op rest ih =>
    intro s hs hops
    have hop : loadedBeforeSwitched (s.afterOp op).trace := by
      rw [State.afterOp_trace]
      exact loadedBeforeSwitched_concat hs fun i b heq => hops i b (heq ▸ List.mem_cons_self)
    cases ha : s.answerOf op with
    | fault => simpa only [runOps, ha] using hop
    | ok =>
      simp only [runOps, ha]
      refine ih hop fun i b hmem => (hops i b (List.mem_cons_of_mem _ hmem)).mono ?_
      rw [State.afterOp_trace]
      exact List.prefix_append _ _

/-- A list of operations is issued part by part: the second part follows where the first has not faulted (R86). -/
theorem runOps_append (first second : List (PeriphOp c)) : ∀ s : State c,
    runOps (first ++ second) s =
      if (runOps first s).1 = .ok then runOps second (runOps first s).2 else runOps first s := by
  induction first with
  | nil => exact fun _ => rfl
  | cons op rest ih =>
    intro s
    cases ha : s.answerOf op with
    | ok => simp only [List.cons_append, runOps, ha, ih]
    | fault => simp only [List.cons_append, runOps, ha, reduceCtorEq, if_false]

/-- The operations of an APPLY before its switches (R86). -/
def beforeSwitches (e : Engine c) : List (PeriphOp c) :=
  (if e.fullPath then sharedOps e else []) ++ (channels c).flatMap (compareOps e.fullPath e)

/-- APPLY switches the outputs last (R86, R87). -/
theorem applyOps_eq_append (e : Engine c) : applyOps e = beforeSwitches e ++ (channels c).map (enableOp e) := rfl

/-- No output is switched before the switches. -/
theorem setChannelOutputEnabled_notMem_beforeSwitches {i : Channel c} {b : Bool} :
    .setChannelOutputEnabled i b ∉ beforeSwitches e := by
  simp [beforeSwitches, sharedOps, mem_compareOps]

/-- Every channel's compare value is written before the switches (R86, R87). -/
theorem setChannelCompare_mem_beforeSwitches (e : Engine c) (i : Channel c) :
    .setChannelCompare i (timerWord c e.cmp[i]) ∈ beforeSwitches e :=
  List.mem_append_right _ (List.mem_flatMap.mpr ⟨i, List.mem_finRange i, List.mem_cons_self⟩)

/-- The operations of an APPLY keep the log safe: the switches are reached only where every compare write before them
was performed (R87). -/
theorem runOps_applyOps_loadedBeforeSwitched (hs : loadedBeforeSwitched s.trace) :
    loadedBeforeSwitched (runOps (applyOps e) s).2.trace := by
  have hfirst : loadedBeforeSwitched (runOps (beforeSwitches e) s).2.trace :=
    runOps_loadedBeforeSwitched _ hs fun _ _ hmem => absurd hmem setChannelOutputEnabled_notMem_beforeSwitches
  rw [applyOps_eq_append, runOps_append]
  split
  · next hok =>
    refine runOps_loadedBeforeSwitched _ hfirst fun i _ _ => ?_
    rw [runOps_trace_of_ok hok]
    exact hasLoaded_allOk (setChannelCompare_mem_beforeSwitches e i)
  · exact hfirst

/-- An APPLY whose operations have all been performed has loaded every channel (R86). -/
theorem runOps_applyOps_hasLoaded (hops : (runOps (applyOps e) s).1 = .ok) (i : Channel c) :
    HasLoaded (runOps (applyOps e) s).2.trace i := by
  rw [runOps_trace_of_ok hops]
  exact hasLoaded_allOk (List.mem_append_left _ (setChannelCompare_mem_beforeSwitches e i))

/-- The one operation of CHON and CHOFF keeps the log safe where every channel has been loaded (R90, R91). -/
theorem runOps_switch_loadedBeforeSwitched (hs : loadedBeforeSwitched s.trace) (hloaded : ∀ i, HasLoaded s.trace i)
    (ch : Channel c) (on : Bool) : loadedBeforeSwitched (runOps [.setChannelOutputEnabled ch on] s).2.trace :=
  runOps_loadedBeforeSwitched _ hs fun i _ _ => hloaded i

end Operations

/-! ### The effects of the commands -/

section Effects

variable {s t u : State c} {i : Instr} {code : Code}

/-- What leaves CONF and the log keeps the invariant. -/
theorem State.switchesSafely_of_same (hs : s.switchesSafely) (hconf : t.eng.conf = s.eng.conf)
    (htrace : t.trace = s.trace) : t.switchesSafely := by
  rw [State.switchesSafely, hconf, htrace]
  exact hs

/-- Without CONF the invariant is about the log alone. -/
theorem State.switchesSafely_of_unconfigured (hconf : s.eng.conf = false) (htrace : loadedBeforeSwitched s.trace) :
    s.switchesSafely :=
  ⟨htrace, fun h => absurd h (by simp [hconf])⟩

/-- The effect of every command keeps the invariant: APPLY because it loads every channel before it switches one and
sets CONF only if all of it was performed, CHON and CHOFF because they switch only while CONF is set, a fault because
it clears CONF, the others because they issue no operation. -/
theorem Effect.switchesSafely (h : Effect s i code u) (hs : s.switchesSafely) : u.switchesSafely := by
  obtain ⟨hlog, hloaded⟩ := id hs
  cases h with
  | illFormed hi => exact hs
  | stored hi => exact State.switchesSafely_of_same hs (Engine.hostWrite_conf _ _ _) rfl
  | prescaler hd => exact State.switchesSafely_of_same hs (Engine.setPscv_conf _ _) rfl
  | noPrescaler hd => exact State.switchesSafely_of_same hs (Engine.setPscv_conf _ _) rfl
  | period hd hduty => exact State.switchesSafely_of_same hs (Engine.setCfgv_conf _ _) rfl
  | noPeriod hd => exact State.switchesSafely_of_same hs (Engine.setCfgv_conf _ _) rfl
  | applyNotReady hflags => exact hs
  | applyFaulted hpscv hcfgv hops =>
    exact State.switchesSafely_of_unconfigured (Engine.setConf_conf _ _) (runOps_applyOps_loadedBeforeSwitched hlog)
  | applied hpscv hcfgv hops =>
    exact ⟨runOps_applyOps_loadedBeforeSwitched hlog, fun _ => runOps_applyOps_hasLoaded hops⟩
  | switchNotReady hi hconf => exact hs
  | switchFaulted hi hconf hops =>
    exact State.switchesSafely_of_unconfigured (Engine.setConf_conf _ _)
      (runOps_switch_loadedBeforeSwitched hlog (hloaded hconf) _ _)
  | switched hi hconf hops =>
    exact ⟨runOps_switch_loadedBeforeSwitched hlog (hloaded hconf) _ _,
      fun _ j => HasLoaded.mono (hloaded hconf j) (runOps_trace_grows _ s)⟩

end Effects

/-- The invariant is kept by all that a step is made of: a reset clears CONF and keeps the log, and nothing but a
command issues an operation (R53, R119). -/
theorem switchesSafely_keptByAll : KeptByAll State.switchesSafely where
  inputs _ _ h := h
  effect _ _ _ _ heffect h := heffect.switchesSafely h
  code _ _ h := State.switchesSafely_of_same h (Engine.setCode_conf _ _) rfl
  response _ _ _ h := h
  assertReset := fun _ ⟨hlog, _⟩ => State.switchesSafely_of_unconfigured Engine.reset_conf hlog
  releaseReset _ h := h
  startCounter _ _ h := h
  stopCounter _ h := h
  tick _ h := h

/-! ### The reset input -/

/-- While the reset input is asserted a command is dropped (R119, log 10). -/
theorem accept_command_of_inReset {s : State} (h : s.inReset = true) (cmd wdata : Word) :
    accept (.command cmd wdata) s = .next s := if_pos h

end Sys2Proof.Machine

namespace Sys2Proof

open Machine

/-- Settles O47: the invariant is kept by the effect of every command and by every other input. -/
theorem noOutputSwitchedBeforeItsCompare : Obligations.NoOutputSwitchedBeforeItsCompare :=
  fun _ _ hs hstep => switchesSafely_keptByAll.step hstep hs

/-- Settles O50: the assertion writes the engine's registers and the reset input, a command meanwhile is dropped, and
the release writes the reset input only. -/
theorem resetRestoresTheEngineOnly : Obligations.ResetRestoresTheEngineOnly :=
  fun _ => ⟨_, _, rfl, accept_command_of_inReset rfl, rfl, rfl, rfl, rfl, rfl, rfl, rfl, rfl⟩

end Sys2Proof
